-- ==== Sys2Proof/Word.lean ====
section
/-!
DEFINITION. The one datum of the block: every port transfer, every buffer access and every command word is a byte
(spec/00_scope.md R7, spec/20_memory.md R26).
-/

namespace Sys2Proof

/-- Eight bits, bit 7 the most significant (R7). -/
abbrev Byte := BitVec 8

end Sys2Proof
end

