-- ==== Sys2Proof/Config.lean ====
section
/-!
DEFINITION. What is fixed for one block: the names and sizes of its three private buffers (R15 to R17, R23), the open
parameters of R5 as one record, and the free value an unwritten buffer cell reads as (R22, U7).
-/

namespace Sys2Proof

/-- The three private buffers (R23). -/
inductive Buffer where
  | raw   -- `RAW`, the RawFrame (R15)
  | unp   -- `UNP`, the UnpackedGrid (R16)
  | scl   -- `SCL`, the ScaledGrid (R17)
  deriving DecidableEq, Repr

/-- The sizes in bytes of R4 and R23. -/
def Buffer.size : Buffer → Nat
  | .raw => 3840
  | .unp => 30720
  | .scl => 276480

/-- The five open parameters of R5: header contents the source names without giving their bytes. "A model takes the
five as a configuration record" (92_eei_decisions.md); they are fixed at build time (R84 (d)). -/
structure Params where
  /-- `BMP_PPM_72`: both resolution fields of the raw-mode header -/
  ppm72   : BitVec 32
  /-- `BMP_PPM_216`: both resolution fields of the scaled-mode header -/
  ppm216  : BitVec 32
  /-- `BMP_DIB_TAIL`: DIB header bytes 32 to 123 -/
  dibTail : Vector Byte 92
  /-- `BMP_PAL_A`: the fourth byte of both colour-table entries -/
  palA    : Byte
  /-- `PCX_HDR`: the whole PCX header -/
  pcxHdr  : Vector Byte 128
  deriving DecidableEq, Repr

/-- FREE VALUE (log 2). What a buffer cell that nothing has written since the last reset holds: "any byte value, not
necessarily 0x00 or 0x01, not necessarily the same after two resets" (R22, U7). Its arguments are the number of resets
so far, the buffer and the flat index. It has no body: nothing can be proved of its values. -/
opaque Config.unwritten : Nat → Buffer → Nat → Byte

end Sys2Proof
end

