-- ==== Sys2Proof/Syntax.lean ====
section
/-!
DEFINITION. The commands of the block, one constructor per row of spec/opcode_table.json (R37), and the fields of the
one command format `CW` (R35). A command has no operand beyond the scale flag, which is part of its row (R36).
-/

namespace Sys2Proof

/-- The nine legal commands (R37). -/
inductive Instr where
  | load       -- LOAD, R44
  | unpack     -- UNPACK, R46
  | upscale    -- UPSCALE, R50
  | emitBmpR   -- EMITBMP.R, R58
  | emitBmpS   -- EMITBMP.S, R59
  | emitPcx    -- EMITPCX, R64
  | convBmpR   -- CONVBMP.R, R69
  | convBmpS   -- CONVBMP.S, R68
  | convPcx    -- CONVPCX, R70
  deriving DecidableEq, Repr

/-- The fields of the format `CW`, most significant first (R35). -/
structure CommandFields where
  /-- bits 7:5, must be 000 -/
  z  : BitVec 3
  /-- bit 4, chain: run the whole pipeline that ends in this emission -/
  c  : Bool
  /-- bit 3, the BMP encoder's scale flag -/
  s  : Bool
  /-- bits 2:0, the operation number -/
  op : BitVec 3
  deriving DecidableEq, Repr

end Sys2Proof
end

