-- ==== Sys2Proof/WellFormed.lean ====
section
/-!
DEFINITION. The checks the spec puts on a command's fields (R35 to R38) and on the parameter `PCX_HDR` (R62).
-/

namespace Sys2Proof

/-- Bits 7:5 "must be 000" (R35). -/
def CommandFields.zOk (f : CommandFields) : Bool := f.z == 0

/-- `OP` is one of the five operations; 0, 6 and 7 are illegal (R38). -/
def CommandFields.opOk (f : CommandFields) : Bool := 1 ≤ f.op.toNat && f.op.toNat ≤ 5

/-- `S` = 1 is legal with `OP` = 4 only (R36, R38). -/
def CommandFields.scaleOk (f : CommandFields) : Bool := !f.s || f.op == 4

/-- `C` = 1 is legal with `OP` = 4 and `OP` = 5 only (R36, R38). -/
def CommandFields.chainOk (f : CommandFields) : Bool := !f.c || f.op == 4 || f.op == 5

/-- The fields make a legal command word (R37, R38). -/
def CommandFields.wellFormed (f : CommandFields) : Bool := f.zOk && f.opOk && f.scaleOk && f.chainOk

/-- "Bits per pixel per plane = 1", "run-length encoding in use" (R62), at the offsets of R63 (log 13). -/
def Params.pcxDepthOk (p : Params) : Bool := p.pcxHdr[2] == 1 && p.pcxHdr[3] == 1

/-- "Image bounds describing 480 columns and 64 rows" (R62): last minus first plus one, at the offsets of R63 (log 13). -/
def Params.pcxBoundsOk (p : Params) : Bool :=
  let h := p.pcxHdr
  (h[9] ++ h[8]).toNat + 1 == (h[5] ++ h[4]).toNat + 480 && (h[11] ++ h[10]).toNat + 1 == (h[7] ++ h[6]).toNat + 64

/-- "Number of colour planes = 1; bytes per line = 60" (R62), at the offsets of R63 (log 13). -/
def Params.pcxPlanesOk (p : Params) : Bool := p.pcxHdr[65] == 1 && (p.pcxHdr[67] ++ p.pcxHdr[66]).toNat == 60

/-- "A palette whose first two colours are white and black" (R62), at the offsets of R63 (log 13). -/
def Params.pcxPaletteOk (p : Params) : Bool :=
  let h := p.pcxHdr
  [h[16], h[17], h[18], h[19], h[20], h[21]] == [0xFF, 0xFF, 0xFF, 0x00, 0x00, 0x00]

/-- What "any value of the parameter must say" (R62). The other four parameters carry no constraint (R5). -/
def Params.wellFormed (p : Params) : Bool := p.pcxDepthOk && p.pcxBoundsOk && p.pcxPlanesOk && p.pcxPaletteOk

end Sys2Proof
end

