-- ==== Sys2Proof/Machine/Params.lean ====
section
/-!
DEFINITION. The default values this spec chose for the open parameters (R5, D19 to D22, R63, V9). State.reset carries
them; a claim about every state holds for every value (log 1).
-/

namespace Sys2Proof.Machine

/-- `u32le(2)` (colours used) and 88 zero bytes (D20). -/
def defaultDibTail : Vector Byte 92 :=
  ⟨#[2, 0, 0, 0] ++ Array.replicate 88 0, by simp⟩

/-- The default of R63, offset by offset. -/
def defaultPcxHdr : Vector Byte 128 :=
  ⟨#[ 0x0A,                                -- 0   manufacturer
      0x05,                                -- 1   version
      0x01,                                -- 2   encoding
      0x01,                                -- 3   bits per pixel per plane
      0x00, 0x00,                          -- 4   x minimum
      0x00, 0x00,                          -- 6   y minimum
      0xDF, 0x01,                          -- 8   x maximum, 479
      0x3F, 0x00,                          -- 10  y maximum, 63
      0x48, 0x00,                          -- 12  horizontal resolution, 72
      0x48, 0x00,                          -- 14  vertical resolution, 72
      0xFF, 0xFF, 0xFF,                    -- 16  palette entry 0, white
      0x00, 0x00, 0x00 ]                   -- 19  palette entry 1, black
    ++ Array.replicate 42 0                -- 22  palette entries 2 to 15
    ++ #[ 0x00,                            -- 64  reserved
          0x01,                            -- 65  colour planes
          0x3C, 0x00,                      -- 66  bytes per line, 60
          0x01, 0x00,                      -- 68  palette type
          0x00, 0x00,                      -- 70  horizontal screen size
          0x00, 0x00 ]                     -- 72  vertical screen size
    ++ Array.replicate 54 0,               -- 74  filler
    by simp⟩

/-- The defaults of R5. -/
def defaultParams : Params :=
  { ppm72 := 2835, ppm216 := 8504, dibTail := defaultDibTail, palA := 0x00, pcxHdr := defaultPcxHdr }

end Sys2Proof.Machine
end

