-- ==== Sys2Proof/Machine/State.lean ====
section
/-!
DEFINITION. The state of the block as plain data (10_state.md R12 to R22), the reasons a step can stop, and the state
after reset.
-/

namespace Sys2Proof.Machine

/-- `PHASE` (R12); the fourth value never occurs (U12). -/
inductive Phase where
  | idle    -- 0: no command is running
  | run     -- 1: a command is running
  | fault   -- 2: a fault is latched
  deriving DecidableEq, Repr

/-- `STAGE` (R12): which primitive a (chain) command is executing; 6 and 7 never occur (U12). -/
inductive Stage where
  | none      -- 0, `NONE`
  | load      -- 1, `S_LOAD`
  | unpack    -- 2, `S_UNPACK`
  | upscale   -- 3, `S_UPSCALE`
  | emitBmp   -- 4, `S_EMITBMP`
  | emitPcx   -- 5, `S_EMITPCX`
  deriving DecidableEq, Repr

/-- What the host does next at the command port, the reset line and the sink line (R14, R19, R85). The list of these in
State is the host's, not the block's (log 5). None adds input bytes: R19 keeps `IN_EOS` at 1 "until reset" and leaves open
whether a new source may begin after one; in the model none does (DESIGN CHOICE, log 16). -/
inductive HostEvent where
  /-- a script line (R40): wait until no command runs, pulse `START` with this word on `CMD`, and leave the block alone
  until the command has completed or faulted -/
  | issue (w : Byte)
  /-- pulse `START` with this word on `CMD` at once, whatever the block is doing (R85), and go on -/
  | pulse (w : Byte)
  /-- leave the ports alone for one beat, meeting the duty of R85 the running command waits on -/
  | tick
  /-- leave the ports alone for one beat without meeting a duty of R85: no input byte and no end of source, no byte taken -/
  | stall
  /-- drive `SINK_OK` to this level -/
  | sink (ok : Bool)
  /-- `RST` = 1 at one rising edge of `CLK` (R83) -/
  | rst
  deriving DecidableEq, Repr

/-- A buffer: (flat index, byte) pairs, indices strictly rising, cells that hold a written byte only. -/
abbrev Memory := List Host.Cell

/-- The form of a buffer of a given size: indices strictly rising and inside the buffer (R23). An unlisted cell reads as
a free value (log 2), so no listed entry can equal it. -/
abbrev Memory.wf (size : Nat) (m : Memory) : Prop :=
  (m.map Prod.fst).Pairwise (· < ·) ∧ ∀ c ∈ m, c.1 < size

/-- Everything the spec gives the block, the model lists of R19, what the host does next, the parameters of R5, and two
fields of the model's own (`epoch`, `rawEpoch`, `resetSeen`). -/
structure State where
  /-- `PHASE` (R12) -/
  phase     : Phase
  /-- `CMDREG`, the latched command word (R12) -/
  cmdreg    : Byte
  /-- `STAGE` (R12) -/
  stage     : Stage
  /-- `ROW` (R12) -/
  row       : BitVec 6
  /-- `COL` (R12) -/
  col       : BitVec 6
  /-- `INCNT`, input bytes consumed by the current LOAD (R12) -/
  incnt     : BitVec 13
  /-- `IDX`, source-pixel index of UPSCALE and write pointer of UNPACK (R12) -/
  idx       : BitVec 15
  /-- `START`, the upscaler's anchor, two's complement (R12) -/
  start     : BitVec 20
  /-- `OUTCNT`, output bytes emitted by the current emission (R12) -/
  outcnt    : BitVec 19
  /-- `RAW_V` (R13) -/
  rawV      : Bool
  /-- `UNP_V` (R13) -/
  unpV      : Bool
  /-- `SCL_V` (R13) -/
  sclV      : Bool
  /-- `DONE` (R13) -/
  done      : Bool
  /-- `ERR` (R14) -/
  err       : BitVec 3
  /-- `ERRINFO` (R14) -/
  errinfo   : BitVec 16
  /-- `RAW` (R15) -/
  raw       : Memory
  /-- `UNP` (R16) -/
  unp       : Memory
  /-- `SCL` (R17) -/
  scl       : Memory
  /-- `IN`: the input bytes not yet consumed; its end is the end of the source (R19) -/
  input     : List Byte
  /-- `OUT`: the bytes emitted, each with its end-of-file mark, oldest first (R19, R43) -/
  output    : List (Byte × Bool)
  /-- the level the host drives on `SINK_OK` (R19, U17; log 4) -/
  sinkOk    : Bool
  /-- what the host does next (log 5) -/
  host      : List HostEvent
  /-- the open parameters (R5; log 1): no step writes them -/
  params    : Params
  /-- MODEL'S OWN (log 3): resets so far, the first argument of the free value of an unwritten cell -/
  epoch     : Nat
  /-- MODEL'S OWN (log 3): the same for `RAW`, which a failed LOAD leaves unspecified too (R44, R72, U2; log 8) -/
  rawEpoch  : Nat
  /-- MODEL'S OWN (log 10): `RST` has been 1 since power-up (R84 (a)) -/
  resetSeen : Bool
  deriving DecidableEq, Repr

/-- Why a step can stop with a fault. The spec's own faults (R71) are not here: taking one is a next state (R76). -/
inductive Fault where
  /-- Raised by a beat (Machine/Beats.lean) in a running state whose `STAGE` or working registers lie outside what R12
  gives them; the spec gives such a state no meaning and no run reaches one (log 11). SAFE: the machine stops where the
  spec says nothing. -/
  | strayWorkingRegister
  deriving DecidableEq, Repr

/-- Why a step can be refused. -/
inductive Refusal where
  /-- Raised by an arm of `exec` whose instruction has no meaning yet. SAFE. -/
  | notModelled (mnemonic : String)
  /-- Raised by a step before `RST` has been 1 since power-up: "before that every register, including PHASE, is
  unspecified and no rule applies" (R84 (a)); U8 says refuse (log 10). SAFE. -/
  | beforeFirstReset
  deriving DecidableEq, Repr

/-- The machine right after reset (R22, R83), with nothing offered by the host (logs 4, 5, 9) and the default parameters
of R5 (log 1). -/
def State.reset : State :=
  { phase := .idle, cmdreg := 0x00, stage := .none
    row := 0, col := 0, incnt := 0, idx := 0, start := 0, outcnt := 0
    rawV := false, unpV := false, sclV := false, done := false
    err := 0, errinfo := 0x0000
    raw := [], unp := [], scl := []
    input := [], output := [], sinkOk := true, host := []
    params := defaultParams, epoch := 0, rawEpoch := 0, resetSeen := true }

end Sys2Proof.Machine
end

