-- ==== Sys2Proof/Machine/Flags.lean ====
section
/-!
DEFINITION. The status ports as functions of the state (R14, R79) and the valid flags (R13). No flag is a condition
code: three of them gate whether a command may read a buffer, `DONE` is the host's.
-/

namespace Sys2Proof.Machine

/-- `BUSY` = (`PHASE` = `RUN`) (R14). -/
def State.busy (s : State) : Bool := s.phase == .run

/-- The `FAULT` bit of `STATUS` = (`PHASE` = `FAULT`) (R14). -/
def State.faulted (s : State) : Bool := s.phase == .fault

/-- `STATUS`: bits 7:6 read 0, then `SCL_V`, `UNP_V`, `RAW_V`, `FAULT`, `DONE`, `BUSY` (R14). -/
def State.status (s : State) : Byte :=
  (0 : BitVec 2) ++ BitVec.ofBool s.sclV ++ BitVec.ofBool s.unpV ++ BitVec.ofBool s.rawV
    ++ BitVec.ofBool s.faulted ++ BitVec.ofBool s.done ++ BitVec.ofBool s.busy

/-- `IRQ` = `DONE` or (`PHASE` = `FAULT`) (R14, R79). -/
def State.irq (s : State) : Bool := s.done || s.faulted

/-- The valid flag of a buffer (R13). -/
def State.valid (s : State) : Buffer → Bool
  | .raw => s.rawV
  | .unp => s.unpV
  | .scl => s.sclV

end Sys2Proof.Machine
end

