-- ==== Sys2Proof/Decode.lean ====
section
/-!
DEFINITION. From command words to commands and back (R35 to R39). A command is one byte; no mode changes how it decodes.
-/

namespace Sys2Proof

/-- Why a command word is illegal: the four classes of R38. -/
inductive Illegal where
  | zNotZero          -- `Z` is not 000
  | opUnused          -- `OP` is 0, 6 or 7
  | scaleNotAllowed   -- `S` = 1 with `OP` other than 4
  | chainNotAllowed   -- `C` = 1 with `OP` other than 4 and 5
  deriving DecidableEq, Repr

/-- The fields of a word (R35). -/
def fieldsOf (w : Byte) : CommandFields :=
  { z := w.extractLsb' 5 3, c := w.getLsbD 4, s := w.getLsbD 3, op := w.extractLsb' 0 3 }

/-- The word of some fields (R35). -/
def wordOf (f : CommandFields) : Byte := f.z ++ BitVec.ofBool f.c ++ BitVec.ofBool f.s ++ f.op

/-- The command of a word, or the name of what makes the word illegal (R37, R38). -/
def decode (w : Byte) : Except Illegal Instr :=
  let f := fieldsOf w
  if f.z ≠ 0 then .error .zNotZero
  else match f.op.toNat, f.c, f.s with
    | 1, false, false => .ok .load
    | 2, false, false => .ok .unpack
    | 3, false, false => .ok .upscale
    | 4, false, false => .ok .emitBmpR
    | 4, false, true  => .ok .emitBmpS
    | 4, true,  false => .ok .convBmpR
    | 4, true,  true  => .ok .convBmpS
    | 5, false, false => .ok .emitPcx
    | 5, true,  false => .ok .convPcx
    | 0, _, _ | 6, _, _ | 7, _, _ => .error .opUnused
    | _, _, true  => .error .scaleNotAllowed
    | _, _, false => .error .chainNotAllowed

/-- The next command of a stream of command bytes and the rest of the stream; `none` at its end. Every command is exactly
one byte (R39). -/
def decodeBytes : List Byte → Option (Except Illegal Instr × List Byte)
  | []      => none
  | w :: ws => some (decode w, ws)

/-- The fields of each command, from the opcode map (R37). -/
def fieldsOfInstr : Instr → CommandFields
  | .load     => { z := 0, c := false, s := false, op := 1 }
  | .unpack   => { z := 0, c := false, s := false, op := 2 }
  | .upscale  => { z := 0, c := false, s := false, op := 3 }
  | .emitBmpR => { z := 0, c := false, s := false, op := 4 }
  | .emitBmpS => { z := 0, c := false, s := true,  op := 4 }
  | .emitPcx  => { z := 0, c := false, s := false, op := 5 }
  | .convBmpR => { z := 0, c := true,  s := false, op := 4 }
  | .convBmpS => { z := 0, c := true,  s := true,  op := 4 }
  | .convPcx  => { z := 0, c := true,  s := false, op := 5 }

/-- The word of each command (R37). -/
def encode (i : Instr) : Byte := wordOf (fieldsOfInstr i)

/-- What the decoder reads from an instruction of `nbits` bits numbered as spec/opcode_table.json numbers them: the one
byte of a command, every bit above `nbits` zero. A number that does not fit a byte is no command. -/
def decodeTableWord (nbits w : Nat) : Option Instr :=
  if w % 2 ^ nbits < 256 then
    match decodeBytes [BitVec.ofNat 8 (w % 2 ^ nbits)] with
    | some (.ok i, _) => some i
    | _ => none
  else none

end Sys2Proof
end

