-- ==== Sys2Proof/Machine/Operands.lean ====
section
/-!
DEFINITION. The operand forms of the commands: the scale and chain bits of the latched word (R36), the flat indices of the
three grids (R23), the bits of a packed byte (R24), the targets of a spread (R49 to R51), and the byte order of header
fields (R7).
-/

namespace Sys2Proof.Machine

/-- `scale = (S == 1)` (R36), read from a command word. -/
def scaleOf (w : Byte) : Bool := (fieldsOf w).s

/-- The chain bit `C` of a command word (R35). -/
def chainOf (w : Byte) : Bool := (fieldsOf w).c

/-- The operation number `OP` of a command word (R35). -/
def opOf (w : Byte) : Nat := (fieldsOf w).op.toNat

/-- Flat index of `RAW[r][b]` (R15). -/
def rawIndex (r b : Nat) : Nat := r * 60 + b

/-- Flat index of `UNP[r][c]` (R16). -/
def unpIndex (r c : Nat) : Nat := r * 480 + c

/-- Flat index of `SCL[y][x]` (R17). -/
def sclIndex (y x : Nat) : Nat := y * 1440 + x

/-- Pixel `k` of a packed byte, `k` = 0 the leftmost, as a byte: `zext_8(v[7-k])` (R24, R46). -/
def pixelOf (v : Byte) (k : Nat) : Byte := (BitVec.ofBool (v.getLsbD (7 - k))).setWidth 8

/-- The eight writes UNPACK makes for one packed byte, from write pointer `idx` up (R46). -/
def byteWrites (idx : Nat) (v : Byte) : List Host.Cell :=
  (List.range 8).map fun k => (idx + k, pixelOf v k)

/-- `DELTA[0..8]`: the nine signed offsets of the spread, in the order the source lists them (R4, R49, D31). -/
def delta : List Int := [-1441, -1440, -1439, -1, 0, 1, 1439, 1440, 1441]

/-- The next value of `START`: recomputed on entering a source row, else advanced by 3 (R50). -/
def nextStart (idx : Nat) (start : Int) : Int :=
  if idx % 480 = 0 then (((idx / 480) * 3 + 1) * 1440 : Nat) else start + 3

/-- One candidate write of the spread: performed iff `0 <= t < 276480`, else silently skipped (R51). -/
def clip (t : Int) (p : Byte) : Option Host.Cell :=
  if 0 ≤ t ∧ t < 276480 then some (t.toNat, p) else none

/-- The spread writes of one source pixel of value `p` with anchor `start`, in the order of `DELTA` (R50). -/
def spreadWrites (start : Int) (p : Byte) : List Host.Cell :=
  delta.filterMap fun δ => clip (start + δ) p

/-- `u16le(v)` (R7). -/
def u16le (v : BitVec 16) : List Byte := [v.extractLsb' 0 8, v.extractLsb' 8 8]

/-- `u32le(v)`, and `i32le` of the same bits (R7). -/
def u32le (v : BitVec 32) : List Byte :=
  [v.extractLsb' 0 8, v.extractLsb' 8 8, v.extractLsb' 16 8, v.extractLsb' 24 8]

end Sys2Proof.Machine
end

