-- ==== Sys2Proof/Machine/Ops.lean ====
section
/-!
DEFINITION. The named operations every command is written with: one-byte buffer accesses (R9, R26), the output stream
(R43), acceptance and completion (R12, R13), TAKING A FAULT (R76) and leaving it, which only reset does (R78, R83).
-/

namespace Sys2Proof.Machine

/-! ## Buffers -/

/-- What a buffer lists at an index, if anything. -/
def Memory.cell? : Memory → Nat → Option Byte
  | [], _ => none
  | c :: m, a => if c.1 = a then some c.2 else Memory.cell? m a

/-- `MemWrite(B:a, 1, v)`: the one cell `a` takes the value `v` (R9, R26). -/
def Memory.write : Memory → Nat → Byte → Memory
  | [], a, v => [(a, v)]
  | c :: m, a, v =>
    if a < c.1 then (a, v) :: c :: m
    else if a = c.1 then (a, v) :: m
    else c :: Memory.write m a v

/-- One-byte writes performed one after another (R29 (a)). -/
def Memory.writeAll (m : Memory) (ws : List Host.Cell) : Memory :=
  ws.foldl (fun m w => m.write w.1 w.2) m

/-- The storage of a buffer. -/
def State.mem (s : State) : Buffer → Memory
  | .raw => s.raw
  | .unp => s.unp
  | .scl => s.scl

/-- Which draw of the free values a buffer's unwritten cells read as: `RAW` has its own count (log 3). -/
def State.drawOf (s : State) : Buffer → Nat
  | .raw => s.rawEpoch
  | .unp => s.epoch
  | .scl => s.epoch

/-- `MemRead(B:a, 1)`: the byte at index `a` (R9); a free value where nothing has been written since reset (R22, U7; log 2).
Reading has no side effect (R26). -/
def State.read (s : State) (b : Buffer) (a : Nat) : Byte :=
  ((s.mem b).cell? a).getD (Config.unwritten (s.drawOf b) b a)

/-- The first `n` bytes of a buffer in flat order. -/
def State.readFlat (s : State) (b : Buffer) (n : Nat) : List Byte :=
  (List.range n).map (s.read b)

/-- `BitGrid[r][c]`, a view of `RAW` (R20). -/
def State.bitGrid (s : State) (r c : Nat) : Byte :=
  (s.read .raw (rawIndex r (c / 8)) >>> (7 - c % 8)) &&& 1

/-- `RAW` becomes unspecified (R44, R72, U2): every cell reads as a fresh free value (log 8). -/
def State.forgetRaw (s : State) : State :=
  { s with raw := [], rawEpoch := s.rawEpoch + 1 }

/-! ## Streams -/

/-- The bytes of one file with their end-of-file marks: the final byte carries the mark and no other does (R43). -/
def markLast (bs : List Byte) : List (Byte × Bool) :=
  let n := bs.length
  bs.zipIdx.map fun p => (p.1, p.2 + 1 == n)

/-- Emit a whole file: its bytes are appended to `OUT` in order, and `OUTCNT` counts them (R43, R58, R59, R64). -/
def State.emitFile (s : State) (bs : List Byte) : State :=
  { s with output := s.output ++ markLast bs, outcnt := BitVec.ofNat 19 bs.length }

/-! ## Commands and faults -/

/-- The four causes (R71). -/
inductive Cause where
  | sourceReadError        -- 1
  | destinationWriteError  -- 2
  | illegalCommand         -- 3
  | operandNotValid        -- 4
  deriving DecidableEq, Repr

/-- The code `ERR` holds (R71). -/
def Cause.code : Cause → BitVec 3
  | .sourceReadError => 1
  | .destinationWriteError => 2
  | .illegalCommand => 3
  | .operandNotValid => 4

/-- Fault entry, `raise E(info)`: `ERR`, `ERRINFO` and `PHASE` are written, nothing else (R76). -/
def State.raise (s : State) (e : Cause) (info : BitVec 16) : State :=
  { s with err := e.code, errinfo := info, phase := .fault }

/-- Acceptance of a command word: it is latched in `CMDREG`, `DONE` is cleared, the block runs (R12, R13, R32). -/
def State.accept (s : State) (w : Byte) : State :=
  { s with phase := .run, cmdreg := w, done := false }

/-- Completion without a fault: `PHASE <- IDLE`, `STAGE <- NONE`, `DONE` set (R12, R13). -/
def State.complete (s : State) : State :=
  { s with phase := .idle, stage := .none, done := true }

/-- The first action of every primitive: `STAGE` names it (R44, R46, R50, R58, R59, R64; C12). -/
def State.enterStage (s : State) (st : Stage) : State :=
  { s with stage := st }

/-- Go on with the command unless a fault was raised: after `raise` "the rest of the command's pseudocode is not
executed" (R9, R76). -/
def State.andThen (s : State) (f : State → State) : State :=
  if s.phase = .run then f s else s

/-- A whole command of word `w` whose pseudocode is `body`: accepted only while `PHASE` = `IDLE`, completed unless it
faulted. Otherwise the strobe "is ignored entirely" (R86, R78). -/
def command (w : Byte) (body : State → State) (s : State) : Host.Outcome State Fault Refusal :=
  if s.phase = .idle then .next ((body (s.accept w)).andThen State.complete) else .next s

/-- An illegal word accepted while idle raises IllegalCommand with the word and does nothing else; otherwise it is not
decoded at all (R38, R74, R86). -/
def execIllegal (w : Byte) (s : State) : Host.Outcome State Fault Refusal :=
  if s.phase = .idle then .next ((s.accept w).raise .illegalCommand (w.setWidth 16)) else .next s

/-- A primitive that reads a buffer whose valid flag is 0 raises OperandNotValid with `CMDREG` (R75). -/
def State.requireValid (s : State) (b : Buffer) : State :=
  if s.valid b then s else s.raise .operandNotValid (s.cmdreg.setWidth 16)

/-- An emission samples `SINK_OK` once, before its first byte; a refusing sink raises DestinationWriteError(0) (R73). -/
def State.requireSink (s : State) : State :=
  if s.sinkOk then s else s.raise .destinationWriteError 0

/-- `RST` = 1 at a rising edge: every register takes its reset value whatever the block was doing, the buffers become
unspecified, `IN` and `OUT` are not touched (R83, R22). Nothing is put on `IN` either: an exhausted source stays exhausted
(DESIGN CHOICE, log 16). -/
def State.hardReset (s : State) : State :=
  { State.reset with
    input := s.input, output := s.output, sinkOk := s.sinkOk, host := s.host, params := s.params
    epoch := s.epoch + 1, rawEpoch := s.rawEpoch + 1 }

end Sys2Proof.Machine
end

