-- ==== Sys2Proof/Laws/Memory.lean ====
section
/-!
SUPPORT. The laws of a buffer: read after write, writes one after another, and the canonical form, which every write
inside the buffer keeps.
-/

namespace Sys2Proof.Machine

@[simp] theorem Memory.cell?_nil (a : Nat) : Memory.cell? [] a = none := rfl

theorem Memory.cell?_cons_ne {c : Host.Cell} (m : Memory) {a : Nat} (h : c.1 ≠ a) :
    Memory.cell? (c :: m) a = m.cell? a := if_neg h

/-- Read after write: the cell written holds the value, every other cell what it held. -/
theorem Memory.cell?_write (m : Memory) (a b : Nat) (v : Byte) :
    (m.write a v).cell? b = if b = a then some v else m.cell? b := by
  induction m with
  | nil => simp [Memory.write, Memory.cell?, eq_comm]
  | cons c m ih =>
    unfold Memory.write
    split_ifs with h1 h2 hb hb <;> simp only [Memory.cell?, ih] <;> split_ifs <;> first | rfl | omega

@[simp] theorem Memory.cell?_write_self (m : Memory) (a : Nat) (v : Byte) : (m.write a v).cell? a = some v := by
  simp [Memory.cell?_write]

@[simp] theorem Memory.cell?_write_ne (m : Memory) {a b : Nat} (v : Byte) (h : b ≠ a) :
    (m.write a v).cell? b = m.cell? b := by
  simp [Memory.cell?_write, h]

/-- The indices a write leaves listed. -/
theorem Memory.mem_keys_write (m : Memory) (a k : Nat) (v : Byte) :
    k ∈ (m.write a v).map Prod.fst ↔ k = a ∨ k ∈ m.map Prod.fst := by
  induction m with
  | nil => simp [Memory.write]
  | cons c m ih =>
    unfold Memory.write
    split_ifs with h1 h2
    · simp
    · subst h2; simp
    · simp only [List.map_cons, List.mem_cons, ih]; tauto

/-- A write inside the buffer keeps the canonical form. -/
theorem Memory.wf_write {size : Nat} {m : Memory} (h : Memory.wf size m) {a : Nat} (ha : a < size) (v : Byte) :
    Memory.wf size (m.write a v) := by
  obtain ⟨hp, hs⟩ := h
  refine ⟨?_, fun c hc => ?_⟩
  · clear hs
    induction m with
    | nil => simp [Memory.write]
    | cons c m ih =>
      rw [List.map_cons, List.pairwise_cons] at hp
      unfold Memory.write
      split_ifs with h1 h2
      · simp only [List.map_cons, List.pairwise_cons, List.mem_cons]
        exact ⟨fun b hb => hb.elim (· ▸ h1) fun hb => h1.trans (hp.1 b hb), hp⟩
      · subst h2; simpa using hp
      · simp only [List.map_cons, List.pairwise_cons]
        refine ⟨fun b hb => ?_, ih hp.2⟩
        rcases (Memory.mem_keys_write m a b v).1 hb with rfl | hb
        · omega
        · exact hp.1 b hb
  · have hk : c.1 ∈ (m.write a v).map Prod.fst := List.mem_map_of_mem hc
    rcases (Memory.mem_keys_write m a c.1 v).1 hk with e | hk
    · omega
    · obtain ⟨d, hd, e⟩ := List.mem_map.1 hk
      exact e ▸ hs d hd

@[simp] theorem Memory.writeAll_nil (m : Memory) : m.writeAll [] = m := rfl

@[simp] theorem Memory.writeAll_cons (m : Memory) (w : Host.Cell) (ws : List Host.Cell) :
    m.writeAll (w :: ws) = (m.write w.1 w.2).writeAll ws := rfl

theorem Memory.writeAll_append (m : Memory) (us ws : List Host.Cell) :
    m.writeAll (us ++ ws) = (m.writeAll us).writeAll ws := List.foldl_append

/-- Writes inside the buffer keep the canonical form. -/
theorem Memory.wf_writeAll {size : Nat} {m : Memory} (h : Memory.wf size m) {ws : List Host.Cell}
    (hws : ∀ w ∈ ws, w.1 < size) : Memory.wf size (m.writeAll ws) := by
  induction ws generalizing m with
  | nil => exact h
  | cons w ws ih =>
    exact ih (Memory.wf_write h (hws w (by simp)) w.2) fun w' hw' => hws w' (List.mem_cons_of_mem _ hw')

/-- A cell none of the writes goes to keeps what it held. -/
theorem Memory.cell?_writeAll_of_not_mem (m : Memory) {ws : List Host.Cell} {a : Nat}
    (h : a ∉ ws.map Prod.fst) : (m.writeAll ws).cell? a = m.cell? a := by
  induction ws generalizing m with
  | nil => rfl
  | cons w ws ih =>
    simp only [List.map_cons, List.mem_cons, not_or] at h
    rw [Memory.writeAll_cons, ih _ h.2, Memory.cell?_write_ne _ _ h.1]

/-- A cell written once holds the value written. -/
theorem Memory.cell?_writeAll_of_mem (m : Memory) {ws : List Host.Cell} (hn : (ws.map Prod.fst).Nodup)
    {a : Nat} {v : Byte} (h : (a, v) ∈ ws) : (m.writeAll ws).cell? a = some v := by
  induction ws generalizing m with
  | nil => simp at h
  | cons w ws ih =>
    rw [List.map_cons, List.nodup_cons] at hn
    rw [Memory.writeAll_cons]
    rcases List.mem_cons.1 h with rfl | h
    · rw [Memory.cell?_writeAll_of_not_mem _ hn.1, Memory.cell?_write_self]
    · exact ih _ hn.2 h

/-- A cell all of whose writes carry the same value, and that is written at all, holds that value. -/
theorem Memory.cell?_writeAll_of_forall (m : Memory) {ws : List Host.Cell} {a : Nat} {v : Byte}
    (hex : a ∈ ws.map Prod.fst) (hall : ∀ w ∈ ws, w.1 = a → w.2 = v) : (m.writeAll ws).cell? a = some v := by
  induction ws generalizing m with
  | nil => simp at hex
  | cons w ws ih =>
    rw [Memory.writeAll_cons]
    by_cases ha : a ∈ ws.map Prod.fst
    · exact ih _ ha fun w' hw' => hall w' (List.mem_cons_of_mem _ hw')
    · rw [Memory.cell?_writeAll_of_not_mem _ ha]
      have e : a = w.1 := by simpa [ha] using hex
      rw [e, Memory.cell?_write_self, hall w (by simp) e.symm]

/-- A cell listed before some writes is listed after them. -/
theorem Memory.isSome_cell?_writeAll (m : Memory) (ws : List Host.Cell) (a : Nat) (h : (m.cell? a).isSome) :
    ((m.writeAll ws).cell? a).isSome := by
  induction ws generalizing m with
  | nil => exact h
  | cons w ws ih => exact ih _ (by rw [Memory.cell?_write]; split_ifs <;> simp [h])

/-- The buffers after reset are in canonical form: nothing is listed. -/
theorem State.reset_wf : Memory.wf 3840 State.reset.raw ∧ Memory.wf 30720 State.reset.unp ∧
    Memory.wf 276480 State.reset.scl := by decide

/-- Lists of rising index with equal contents are equal data. -/
theorem Memory.ext_of_rising {m n : Memory} (hm : (m.map Prod.fst).Pairwise (· < ·))
    (hn : (n.map Prod.fst).Pairwise (· < ·)) (h : ∀ a, m.cell? a = n.cell? a) : m = n := by
  have head : ∀ {c : Host.Cell} {l : Memory}, ((c :: l : Memory).map Prod.fst).Pairwise (· < ·) →
      ∀ a ≤ c.1, Memory.cell? l a = none := by
    intro c l hl a ha
    rw [List.map_cons, List.pairwise_cons] at hl
    have : ∀ b ∈ l.map Prod.fst, a ≠ b := fun b hb => by have := hl.1 b hb; omega
    clear hl ha
    induction l with
    | nil => rfl
    | cons d l ih =>
      simp only [List.map_cons, List.mem_cons, forall_eq_or_imp] at this
      rw [Memory.cell?, if_neg (fun e => this.1 e.symm)]
      exact ih this.2
  induction m generalizing n with
  | nil =>
    cases n with
    | nil => rfl
    | cons d n => simpa [Memory.cell?] using h d.1
  | cons c m ih =>
    cases n with
    | nil => simpa [Memory.cell?] using h c.1
    | cons d n =>
      have h1 := h c.1
      have h2 := h d.1
      have hcd : c.1 = d.1 := by
        by_contra hne
        rcases lt_or_gt_of_ne hne with hlt | hlt
        · rw [Memory.cell?, if_pos rfl, Memory.cell?, if_neg (Ne.symm hne), head hn _ hlt.le] at h1
          simp at h1
        · rw [Memory.cell?, if_neg hne, head hm _ hlt.le, Memory.cell?, if_pos rfl] at h2
          simp at h2
      have hv : c.2 = d.2 := by simpa [Memory.cell?, hcd] using h1
      have e : c = d := Prod.ext hcd hv
      subst e
      congr 1
      refine ih (List.pairwise_cons.1 hm).2 (List.pairwise_cons.1 hn).2 fun a => ?_
      by_cases ha : a ≤ c.1
      · rw [head hm a ha, head hn a ha]
      · have := h a
        rwa [Memory.cell?, if_neg (by omega), Memory.cell?, if_neg (by omega)] at this

/-- Equal contents in canonical form are equal data. -/
theorem Memory.ext_of_wf {size : Nat} {m n : Memory} (hm : Memory.wf size m) (hn : Memory.wf size n)
    (h : ∀ a, m.cell? a = n.cell? a) : m = n := Memory.ext_of_rising hm.1 hn.1 h

/-- Writes to an empty buffer leave a list of rising index. -/
theorem Memory.rising_writeAll_nil (ws : List Host.Cell) :
    ((Memory.writeAll [] ws).map Prod.fst).Pairwise (· < ·) := by
  refine (Memory.wf_writeAll (size := (ws.map Prod.fst).sum + 1) (m := []) ⟨by simp, by simp⟩ fun w hw => ?_).1
  exact Nat.lt_succ_of_le (List.single_le_sum (by simp) _ (List.mem_map_of_mem hw))

/-- What a cell holds after some writes to an empty buffer: the last value written there. -/
theorem Memory.cell?_writeAll_nil (ws : List Host.Cell) (a : Nat) :
    (Memory.writeAll [] ws).cell? a = ((ws.filter fun w => w.1 = a).getLast?).map Prod.snd := by
  induction ws using List.reverseRecOn with
  | nil => rfl
  | append_singleton ws w ih =>
    rw [Memory.writeAll_append, Memory.writeAll_cons, Memory.writeAll_nil, Memory.cell?_write, ih]
    by_cases h : w.1 = a
    · simp [h]
    · simp [h, Ne.symm h]

/-- A list of rising index is what its own entries, written one after another, make. -/
theorem Memory.writeAll_nil_self {m : Memory} (hm : (m.map Prod.fst).Pairwise (· < ·)) :
    Memory.writeAll [] m = m := by
  refine Memory.ext_of_rising (Memory.rising_writeAll_nil m) hm fun a => ?_
  by_cases h : a ∈ m.map Prod.fst
  · obtain ⟨c, hc, rfl⟩ := List.mem_map.1 h
    have hn : (m.map Prod.fst).Nodup := hm.imp Nat.ne_of_lt
    rw [Memory.cell?_writeAll_of_mem _ hn hc]
    clear h hm
    induction m with
    | nil => simp at hc
    | cons d m ih =>
      rw [List.map_cons, List.nodup_cons] at hn
      rcases List.mem_cons.1 hc with rfl | hc
      · simp [Memory.cell?]
      · have hne : d.1 ≠ c.1 := by
          intro e
          exact hn.1 (by rw [e]; exact List.mem_map_of_mem hc)
        rw [Memory.cell?_cons_ne _ hne]
        exact ih hc hn.2
  · rw [Memory.cell?_writeAll_of_not_mem _ h]
    clear hm
    induction m with
    | nil => rfl
    | cons d m ih =>
      simp only [List.map_cons, List.mem_cons, not_or] at h
      rw [Memory.cell?_cons_ne _ (Ne.symm h.1)]
      exact ih h.2

end Sys2Proof.Machine
end

