-- ==== Sys2Proof/Machine/Fast.lean ====
section
/-!
DEFINITION. Nothing new about the block: forms of three buffer operations that run fast and without deep recursion, each
proved equal to the operation it stands for, so that compiled code may use them. Machine/Ops.lean says what they mean.
-/

namespace Sys2Proof.Machine

/-- `Memory.write` with the cells already passed in `acc`, newest first. -/
def Memory.writeAcc (a : Nat) (v : Byte) : List Host.Cell → Memory → Memory
  | acc, [] => acc.reverseAux [(a, v)]
  | acc, c :: m =>
    if a < c.1 then acc.reverseAux ((a, v) :: c :: m)
    else if a = c.1 then acc.reverseAux ((a, v) :: m)
    else Memory.writeAcc a v (c :: acc) m

/-- `Memory.write` in constant stack. -/
def Memory.writeLoop (m : Memory) (a : Nat) (v : Byte) : Memory := Memory.writeAcc a v [] m

theorem Memory.writeAcc_eq (a : Nat) (v : Byte) (acc : List Host.Cell) (m : Memory) :
    Memory.writeAcc a v acc m = acc.reverseAux (m.write a v) := by
  induction m generalizing acc with
  | nil => rfl
  | cons c m ih =>
    unfold Memory.writeAcc Memory.write
    split_ifs
    · rfl
    · rfl
    · exact ih (c :: acc)

@[csimp] theorem Memory.write_eq_writeLoop : @Memory.write = @Memory.writeLoop := by
  funext m a v
  exact (Memory.writeAcc_eq a v [] m).symm

/-- The indices rise. -/
def Memory.rising : Memory → Bool
  | [] => true
  | [_] => true
  | c :: d :: m => decide (c.1 < d.1) && Memory.rising (d :: m)

theorem Memory.pairwise_of_rising {m : Memory} (h : m.rising = true) : (m.map Prod.fst).Pairwise (· < ·) := by
  match m with
  | [] => simp
  | [c] => simp
  | c :: d :: m =>
    simp only [Memory.rising, Bool.and_eq_true, decide_eq_true_eq] at h
    have ih := Memory.pairwise_of_rising h.2
    rw [List.map_cons, List.pairwise_cons]
    refine ⟨fun b hb => ?_, ih⟩
    rcases List.mem_cons.1 hb with rfl | hb
    · exact h.1
    · exact h.1.trans ((List.pairwise_cons.1 ih).1 b hb)

/-- Of a list ordered by index, the last entry of each index, with the entries already passed in `acc`. -/
def Memory.keepLast : List Host.Cell → List Host.Cell → Memory
  | acc, [] => acc.reverse
  | acc, [c] => (c :: acc).reverse
  | acc, c :: d :: l => if c.1 = d.1 then Memory.keepLast acc (d :: l) else Memory.keepLast (c :: acc) (d :: l)

theorem Memory.keepLast_acc (acc l : List Host.Cell) :
    Memory.keepLast acc l = acc.reverse ++ Memory.keepLast [] l := by
  match l with
  | [] => simp [Memory.keepLast]
  | [c] => simp [Memory.keepLast]
  | c :: d :: l =>
    unfold Memory.keepLast
    split_ifs
    · exact Memory.keepLast_acc acc (d :: l)
    · rw [Memory.keepLast_acc (c :: acc), Memory.keepLast_acc [c]]; simp

theorem Memory.mem_keepLast {l : List Host.Cell} {c : Host.Cell} (h : c ∈ Memory.keepLast [] l) : c ∈ l := by
  match l with
  | [] => simp [Memory.keepLast] at h
  | [d] => simpa [Memory.keepLast] using h
  | d :: e :: l =>
    unfold Memory.keepLast at h
    split_ifs at h
    · exact List.mem_cons_of_mem _ (Memory.mem_keepLast h)
    · rw [Memory.keepLast_acc, List.mem_append] at h
      rcases h with h | h
      · simp at h; simp [h]
      · exact List.mem_cons_of_mem _ (Memory.mem_keepLast h)

/-- On a list ordered by index `keepLast` is the writes of the list in order. -/
theorem Memory.keepLast_eq {l : List Host.Cell} (hl : l.Pairwise fun c d => c.1 ≤ d.1) :
    ((Memory.keepLast [] l).map Prod.fst).Pairwise (· < ·) ∧
      ∀ a, (Memory.keepLast [] l).cell? a = ((l.filter fun w => w.1 = a).getLast?).map Prod.snd := by
  match l with
  | [] => simp [Memory.keepLast]
  | [c] =>
    refine ⟨by simp [Memory.keepLast], fun a => ?_⟩
    by_cases h : c.1 = a <;> simp [Memory.keepLast, Memory.cell?, h]
  | c :: d :: l =>
    rw [List.pairwise_cons] at hl
    have ih := Memory.keepLast_eq hl.2
    unfold Memory.keepLast
    split_ifs with h
    · refine ⟨ih.1, fun a => ?_⟩
      rw [ih.2 a]
      by_cases ha : d.1 = a <;> simp [h, ha]
    · rw [Memory.keepLast_acc]
      have hlt : ∀ w ∈ d :: l, c.1 < w.1 := by
        intro w hw
        have h1 := hl.1 d (by simp)
        rcases List.mem_cons.1 hw with rfl | hw'
        · omega
        · have := (List.pairwise_cons.1 hl.2).1 w hw'
          omega
      refine ⟨?_, fun a => ?_⟩
      · simp only [List.reverse_cons, List.reverse_nil, List.nil_append, List.singleton_append, List.map_cons,
          List.pairwise_cons]
        refine ⟨fun b hb => ?_, ih.1⟩
        obtain ⟨w, hw, rfl⟩ := List.mem_map.1 hb
        exact hlt w (Memory.mem_keepLast hw)
      · simp only [List.reverse_cons, List.reverse_nil, List.nil_append, List.singleton_append, Memory.cell?]
        by_cases ha : c.1 = a
        · have hnone : (d :: l).filter (fun w => w.1 = a) = [] :=
            List.filter_eq_nil_iff.2 fun w hw => by have := hlt w hw; simp; omega
          rw [if_pos ha, List.filter_cons_of_pos (by simp [ha]), hnone]
          rfl
        · rw [if_neg ha, ih.2 a, List.filter_cons_of_neg (a := c) (by simpa using ha)]

/-- `Memory.writeAll` by one stable sort. -/
def Memory.writeSorted (m : Memory) (ws : List Host.Cell) : Memory :=
  if m.rising then Memory.keepLast [] ((m ++ ws).mergeSort fun c d => decide (c.1 ≤ d.1))
  else ws.foldl (fun m w => m.writeLoop w.1 w.2) m

@[csimp] theorem Memory.writeAll_eq_writeSorted : @Memory.writeAll = @Memory.writeSorted := by
  funext m ws
  unfold Memory.writeSorted
  split_ifs with hm
  · have hm := Memory.pairwise_of_rising hm
    have htr : ∀ a b c : Host.Cell, decide (a.1 ≤ b.1) = true → decide (b.1 ≤ c.1) = true → decide (a.1 ≤ c.1) = true :=
      fun a b c h1 h2 => by simp at *; omega
    have hto : ∀ a b : Host.Cell, (decide (a.1 ≤ b.1) || decide (b.1 ≤ a.1)) = true := fun a b => by simp; omega
    have hs : ((m ++ ws).mergeSort fun c d => decide (c.1 ≤ d.1)).Pairwise fun c d => c.1 ≤ d.1 :=
      (List.pairwise_mergeSort htr hto (m ++ ws)).imp (by simp)
    have hk := Memory.keepLast_eq hs
    have hsub : ∀ a, ((m ++ ws).mergeSort fun c d => decide (c.1 ≤ d.1)).filter (fun w => w.1 = a)
        = (m ++ ws).filter fun w => w.1 = a := by
      intro a
      have hc : ((m ++ ws).filter fun w => w.1 = a).Pairwise fun c d => decide (c.1 ≤ d.1) = true := by
        refine List.pairwise_iff_forall_sublist.2 fun {x y} hxy => ?_
        have hx := List.of_mem_filter (hxy.subset (by simp : x ∈ [x, y]))
        have hy := List.of_mem_filter (hxy.subset (by simp : y ∈ [x, y]))
        simp at hx hy ⊢; omega
      have h1 := (List.sublist_mergeSort htr hto hc List.filter_sublist).filter fun w : Host.Cell => w.1 = a
      rw [List.filter_filter] at h1
      simp only [Bool.and_self] at h1
      refine (h1.eq_of_length ?_).symm
      exact ((List.mergeSort_perm (m ++ ws) _).symm.filter _).length_eq
    calc m.writeAll ws = Memory.writeAll [] (m ++ ws) := by
          rw [Memory.writeAll_append, Memory.writeAll_nil_self hm]
      _ = _ := Memory.ext_of_rising (Memory.rising_writeAll_nil _) hk.1 fun a => by
          rw [Memory.cell?_writeAll_nil, hk.2 a, hsub a]
  · rw [← Memory.write_eq_writeLoop]; rfl

/-- `n` cells from index `a` up of a list of rising index, `dflt` where a cell is not listed. -/
def Memory.walk (dflt : Nat → Byte) : Memory → Nat → Nat → List Byte → List Byte
  | _, 0, _, acc => acc.reverse
  | [], n + 1, a, acc => Memory.walk dflt [] n (a + 1) (dflt a :: acc)
  | c :: m, n + 1, a, acc =>
    if c.1 = a then Memory.walk dflt m n (a + 1) (c.2 :: acc)
    else Memory.walk dflt (c :: m) n (a + 1) (dflt a :: acc)

theorem Memory.walk_eq (dflt : Nat → Byte) {m : Memory} (hm : (m.map Prod.fst).Pairwise (· < ·)) (n a : Nat)
    (ha : ∀ c ∈ m, a ≤ c.1) (acc : List Byte) :
    Memory.walk dflt m n a acc = acc.reverse ++ (List.range' a n).map fun b => (m.cell? b).getD (dflt b) := by
  induction n generalizing m a acc with
  | zero => cases m <;> simp [Memory.walk]
  | succ n ih =>
    cases m with
    | nil => rw [Memory.walk, ih hm (a + 1) (by simp)]; simp [List.range'_succ]
    | cons c m =>
      rw [List.map_cons, List.pairwise_cons] at hm
      rw [Memory.walk]
      split_ifs with hc
      · rw [ih hm.2 (a + 1) fun d hd => by
          have := hm.1 d.1 (List.mem_map_of_mem hd); omega]
        have hrest : ∀ b ∈ List.range' (a + 1) n, (Memory.cell? m b).getD (dflt b) = (Memory.cell? (c :: m) b).getD (dflt b) := by
          intro b hb
          rw [Memory.cell?, if_neg]
          have := List.left_le_of_mem_range' hb
          omega
        rw [List.range'_succ, List.map_cons, List.map_congr_left hrest]
        simp [Memory.cell?, hc]
      · have hnone : Memory.cell? (c :: m) a = none := by
          by_contra hne
          obtain ⟨v, hv⟩ := Option.ne_none_iff_exists'.1 hne
          have : a ∈ (c :: m).map Prod.fst := by
            by_contra hnot
            rw [← Memory.writeAll_nil_self (m := c :: m) (by simpa using hm),
              Memory.cell?_writeAll_of_not_mem _ hnot] at hv
            simp at hv
          rcases List.mem_cons.1 this with h | h
          · exact hc h.symm
          · have h1 := hm.1 a h
            have h2 := ha c (by simp)
            omega
        rw [ih (by simpa using hm) (a + 1) fun d hd => by
          have h1 := ha c (by simp)
          rcases List.mem_cons.1 hd with rfl | hd
          · omega
          · have := hm.1 d.1 (List.mem_map_of_mem hd); omega]
        rw [List.range'_succ, List.map_cons, hnone]
        simp

/-- `State.readFlat` in one pass. -/
def State.readWalk (s : State) (b : Buffer) (n : Nat) : List Byte :=
  if (s.mem b).rising then Memory.walk (Config.unwritten (s.drawOf b) b) (s.mem b) n 0 []
  else (List.range n).map (s.read b)

@[csimp] theorem State.readFlat_eq_readWalk : @State.readFlat = @State.readWalk := by
  funext s b n
  unfold State.readWalk State.readFlat
  split_ifs with h
  · rw [Memory.walk_eq _ (Memory.pairwise_of_rising h) n 0 (by simp), List.range_eq_range']
    rfl
  · rfl

end Sys2Proof.Machine
end

