-- ==== Sys2Proof/Machine/Decoder.lean ====
section
/-!
DEFINITION. The Framebuffer Decoder: LOAD (40_decoder.md R44, R45).
-/

namespace Sys2Proof.Machine

/-- The buffer write LOAD makes for the input byte at position `k` of the frame: stored row `k / 64`, stored column
`k % 64`; columns 60 to 63 are dropped (R42, R44). -/
def frameWrite (v : Byte) (k : Nat) : Option Host.Cell :=
  if k % 64 < 60 then some (rawIndex (k / 64) (k % 64), v) else none

/-- The writes LOAD makes for the bytes it consumes, in order. -/
def frameWrites (ds : List Byte) : List Host.Cell :=
  ds.zipIdx.filterMap fun p => frameWrite p.1 p.2

/-- LOAD up to its loop: the stage, the three valid flags cleared, the counters at their first values (R44). -/
def loadEnter (s : State) : State :=
  { s.enterStage .load with
    rawV := false, unpV := false, sclV := false, incnt := 0, row := 0, col := 0 }

/-- LOAD's loop with at least 4096 bytes available: the first 4096 are consumed, `RAW` is written, `RAW_V` set (R44). -/
def loadFull (s : State) : State :=
  { s with
    raw := s.raw.writeAll (frameWrites (s.input.take 4096)), input := s.input.drop 4096
    incnt := 4096, row := 63, col := 63, rawV := true }

/-- LOAD's loop with `n` < 4096 bytes available: all are consumed, then the missing byte, at row `n / 64` and column
`n % 64`, raises SourceReadError(n) and leaves `RAW` unspecified (R44, R72, U2). -/
def loadShort (s : State) : State :=
  let n := s.input.length
  { s.forgetRaw with
    input := [], incnt := BitVec.ofNat 13 n, row := BitVec.ofNat 6 (n / 64), col := BitVec.ofNat 6 (n % 64) }
  |>.raise .sourceReadError (BitVec.ofNat 16 n)

/-- LOAD after its prologue: "Equivalent command-level statement" (R44). -/
def loadBody (s : State) : State :=
  if 4096 ≤ s.input.length then loadFull s else loadShort s

/-- The primitive LOAD (R44). -/
def load (s : State) : State := loadBody (loadEnter s)

/-- LOAD (R44). -/
def execLoad (s : State) : Host.Outcome State Fault Refusal := command (encode .load) load s

end Sys2Proof.Machine
end

