-- ==== Sys2Proof/Machine/BmpEncoder.lean ====
section
/-!
DEFINITION. The BMP Encoder: EMITBMP.R and EMITBMP.S (43_bmp_encoder.md R55 to R61). The header is a function of the
scale flag and the parameters of R5 and nothing else (R18, R21, R61, R88).
-/

namespace Sys2Proof.Machine

/-- The 14-byte file header (R55, R56): "BM", the file size, two reserved zeros, the offset of the pixel data. The raw
mode's file size counts 256 bytes that are not in the file (R60, R91). -/
def bmpFileHeader (scale : Bool) : List Byte :=
  [0x42, 0x4D] ++ u32le (if scale then 276626 else 4242) ++ u16le 0 ++ u16le 0 ++ u32le 146

/-- The 124-byte DIB header (R55, R56): size, width, height, planes, bits per pixel, compression, image data size, the
two resolutions, and the parameter `BMP_DIB_TAIL`. -/
def bmpDibHeader (p : Params) (scale : Bool) : List Byte :=
  u32le 124
  ++ u32le (if scale then 1440 else 480)
  ++ u32le (if scale then 192 else 64)
  ++ u16le 1
  ++ u16le (if scale then 8 else 1)
  ++ u32le 0
  ++ u32le (if scale then 276480 else 4096)
  ++ u32le (if scale then p.ppm216 else p.ppm72)
  ++ u32le (if scale then p.ppm216 else p.ppm72)
  ++ p.dibTail.toList

/-- The colour table: white, then black, in B-G-R-A order (R57). -/
def bmpColourTable (p : Params) : List Byte :=
  [0xFF, 0xFF, 0xFF, p.palA] ++ [0x00, 0x00, 0x00, p.palA]

/-- `BMPHDR(scale)`, the 146 header bytes (R55 to R57, R61). -/
def bmpHeader (p : Params) (scale : Bool) : List Byte :=
  bmpFileHeader scale ++ bmpDibHeader p scale ++ bmpColourTable p

/-- The pixel bytes of the raw-mode file: destination row `ROW` streams source row `63 - ROW`, bytes unchanged (R58). -/
def bmpRawPixels (rd : Nat → Byte) : List Byte :=
  (List.range 64).flatMap fun r => (List.range 60).map fun b => rd (rawIndex (63 - r) b)

/-- The raw-mode file (R58). -/
def bmpRawFile (s : State) : List Byte := bmpHeader s.params false ++ bmpRawPixels (s.read .raw)

/-- The scaled-mode file: the header and `SCL` in flat order, no flip (R59). -/
def bmpScaledFile (s : State) : List Byte := bmpHeader s.params true ++ s.readFlat .scl 276480

/-- The gates of EMITBMP: the stage, the operand, the sink, in that order (R58, R59, R77). -/
def emitBmpGate (b : Buffer) (s : State) : State :=
  ((s.enterStage .emitBmp).requireValid b).andThen State.requireSink

/-- The counters of a row-by-row emission at their first values (R58, R64; log 7). -/
def emitRowsStart (s : State) : State := { s with outcnt := 0, row := 0, col := 0 }

/-- The counters of a row-by-row emission at their last values (log 7). -/
def emitRowsEnd (s : State) : State := { s with row := 63, col := 59 }

/-- The counter of a flat emission at its first value (R59). -/
def emitFlatStart (s : State) : State := { s with outcnt := 0 }

/-- EMITBMP.R up to its first byte (R58). -/
def emitBmpREnter (s : State) : State := (emitBmpGate .raw s).andThen emitRowsStart

/-- EMITBMP.S up to its first byte (R59). -/
def emitBmpSEnter (s : State) : State := (emitBmpGate .scl s).andThen emitFlatStart

/-- EMITBMP.R's emission (R58). -/
def emitBmpRBody (s : State) : State := emitRowsEnd (s.emitFile (bmpRawFile s))

/-- EMITBMP.S's emission (R59). -/
def emitBmpSBody (s : State) : State := s.emitFile (bmpScaledFile s)

/-- The primitive EMITBMP with `scale == false` (R58). -/
def emitBmpR (s : State) : State := (emitBmpREnter s).andThen emitBmpRBody

/-- The primitive EMITBMP with `scale == true` (R59). -/
def emitBmpS (s : State) : State := (emitBmpSEnter s).andThen emitBmpSBody

/-- EMITBMP.R (R58). -/
def execEmitBmpR (s : State) : Host.Outcome State Fault Refusal := command (encode .emitBmpR) emitBmpR s

/-- EMITBMP.S (R59). -/
def execEmitBmpS (s : State) : Host.Outcome State Fault Refusal := command (encode .emitBmpS) emitBmpS s

end Sys2Proof.Machine
end

