-- ==== Sys2Proof/Machine/PcxEncoder.lean ====
section
/-!
DEFINITION. The PCX Encoder: EMITPCX (44_pcx_encoder.md R62 to R65).
-/

namespace Sys2Proof.Machine

/-- `PCX_RUN`, the constant run marker (R4, R64). -/
def pcxRun : Byte := 0xC1

/-- The pixel stream: for every packed byte in source order, no flip, the marker and the byte; runs are never merged
(R64). -/
def pcxPairs (rd : Nat → Byte) : List Byte :=
  (List.range 64).flatMap fun r => (List.range 60).flatMap fun b => [pcxRun, rd (rawIndex r b)]

/-- The PCX file (R62, R64). -/
def pcxFile (s : State) : List Byte := s.params.pcxHdr.toList ++ pcxPairs (s.read .raw)

/-- The gates of EMITPCX: the stage, the operand, the sink, in that order (R64, R77). -/
def emitPcxGate (s : State) : State :=
  ((s.enterStage .emitPcx).requireValid .raw).andThen State.requireSink

/-- EMITPCX up to its first byte (R64). -/
def emitPcxEnter (s : State) : State := (emitPcxGate s).andThen emitRowsStart

/-- EMITPCX's emission (R64). -/
def emitPcxBody (s : State) : State := emitRowsEnd (s.emitFile (pcxFile s))

/-- The primitive EMITPCX (R64). -/
def emitPcx (s : State) : State := (emitPcxEnter s).andThen emitPcxBody

/-- EMITPCX (R64). -/
def execEmitPcx (s : State) : Host.Outcome State Fault Refusal := command (encode .emitPcx) emitPcx s

end Sys2Proof.Machine
end

