-- ==== Sys2Proof/Machine/Unpacker.lean ====
section
/-!
DEFINITION. The Bit Unpacker: UNPACK (41_unpacker.md R46 to R48).
-/

namespace Sys2Proof.Machine

/-- The writes of UNPACK's loop, in order: output row `r` and byte column `b` expand the byte of source row `63 - r`
(R46); before them `IDX` is `r*480 + b*8`. -/
def unpackWrites (rd : Nat → Byte) : List Host.Cell :=
  (List.range 64).flatMap fun r => (List.range 60).flatMap fun b =>
    byteWrites (unpIndex r (b * 8)) (rd (rawIndex (63 - r) b))

/-- UNPACK between its precondition and its loop: `UNP_V` and `SCL_V` cleared, the counters at their first values (R46). -/
def unpackStart (s : State) : State :=
  { s with unpV := false, sclV := false, idx := 0, row := 0, col := 0 }

/-- UNPACK up to its loop (R46, R75). -/
def unpackEnter (s : State) : State :=
  ((s.enterStage .unpack).requireValid .raw).andThen unpackStart

/-- UNPACK's loop: `UNP` written, the write pointer at 30720, `UNP_V` set (R46). -/
def unpackBody (s : State) : State :=
  { s with
    unp := s.unp.writeAll (unpackWrites (s.read .raw))
    idx := 30720, row := 63, col := 59, unpV := true }

/-- The primitive UNPACK (R46). -/
def unpack (s : State) : State := (unpackEnter s).andThen unpackBody

/-- UNPACK (R46). -/
def execUnpack (s : State) : Host.Outcome State Fault Refusal := command (encode .unpack) unpack s

end Sys2Proof.Machine
end

