-- ==== Sys2Proof/Machine/Upscaler.lean ====
section
/-!
DEFINITION. The Neighbor-Spread Upscaler: UPSCALE (42_upscaler.md R49 to R54). The index arithmetic is flat: a target one
below a row's first cell is the last cell of the row before (R23, R53, C1).
-/

namespace Sys2Proof.Machine

/-- The clear phase: 0x00 to every cell, in flat order (R50, D11). -/
def clearWrites : List Host.Cell := (List.range 276480).map fun d => (d, 0x00)

/-- The spread phase from source pixel `idx` on, given the pixels that are left and the value `START` holds: the last
value of `START` and the writes in order (R50). -/
def spreadFrom : List Byte → Nat → Int → Int × List Host.Cell
  | [], _, start => (start, [])
  | p :: ps, idx, start =>
    let start' := nextStart idx start
    let rest := spreadFrom ps (idx + 1) start'
    (rest.1, spreadWrites start' p ++ rest.2)

/-- UPSCALE between its precondition and its spread phase: `SCL_V` cleared, `SCL` cleared, `IDX` at its first value
(R50). -/
def upscaleStart (s : State) : State :=
  { s with sclV := false, scl := s.scl.writeAll clearWrites, idx := 0 }

/-- UPSCALE up to its spread phase (R50, R75). -/
def upscaleEnter (s : State) : State :=
  ((s.enterStage .upscale).requireValid .unp).andThen upscaleStart

/-- The spread phase of the 30720 source pixels of `UNP` in flat order. -/
def spreadAll (s : State) : Int × List Host.Cell := spreadFrom (s.readFlat .unp 30720) 0 s.start.toInt

/-- UPSCALE's spread phase: `SCL` written, `IDX` and `START` at their last values, `SCL_V` set (R50). -/
def upscaleBody (s : State) : State :=
  { s with
    scl := s.scl.writeAll (spreadAll s).2, start := BitVec.ofInt 20 (spreadAll s).1
    idx := 30719, sclV := true }

/-- The primitive UPSCALE (R50). -/
def upscale (s : State) : State := (upscaleEnter s).andThen upscaleBody

/-- UPSCALE (R50). -/
def execUpscale (s : State) : Host.Outcome State Fault Refusal := command (encode .upscale) upscale s

end Sys2Proof.Machine
end

