-- ==== Sys2Proof/Machine/Convert.lean ====
section
/-!
DEFINITION. The pipelines: CONVBMP.S, CONVBMP.R, CONVPCX (45_convert.md R66 to R70). One acceptance, the primitives in
order, each as its own rule says; a primitive that faults ends the command (R67).
-/

namespace Sys2Proof.Machine

/-- LOAD; UNPACK; UPSCALE; EMITBMP.S (R68). -/
def convBmpS (s : State) : State := (((load s).andThen unpack).andThen upscale).andThen emitBmpS

/-- LOAD; EMITBMP.R (R69). -/
def convBmpR (s : State) : State := (load s).andThen emitBmpR

/-- LOAD; EMITPCX (R70). -/
def convPcx (s : State) : State := (load s).andThen emitPcx

/-- CONVBMP.S (R68). -/
def execConvBmpS (s : State) : Host.Outcome State Fault Refusal := command (encode .convBmpS) convBmpS s

/-- CONVBMP.R (R69). -/
def execConvBmpR (s : State) : Host.Outcome State Fault Refusal := command (encode .convBmpR) convBmpR s

/-- CONVPCX (R70). -/
def execConvPcx (s : State) : Host.Outcome State Fault Refusal := command (encode .convPcx) convPcx s

end Sys2Proof.Machine
end

