-- ==== Sys2Proof/Machine/Beats.lean ====
section
/-!
DEFINITION. The command below command level (R6): one beat is one iteration of a primitive's loop, with the place in the
command held in R12's registers only. Machine/Dispatch.lean runs a whole command; a beat is what an event in the middle of
one sees (R83, R85, R86). Beats count loop iterations, not clock cycles (log 6).
-/

namespace Sys2Proof.Machine

/-- The primitive a legal word starts with: LOAD when it chains, else its own operation (R35, R37). -/
def firstStage (w : Byte) : Stage :=
  if chainOf w then .load
  else match opOf w with
    | 1 => .load
    | 2 => .unpack
    | 3 => .upscale
    | 4 => .emitBmp
    | 5 => .emitPcx
    | _ => .none

/-- The primitive that follows another inside a command: none outside a chain, else the next of R68, R69, R70. -/
def nextStage (w : Byte) (st : Stage) : Stage :=
  if chainOf w then
    match st with
    | .load => if opOf w = 5 then .emitPcx else if scaleOf w then .unpack else .emitBmp
    | .unpack => .upscale
    | .upscale => .emitBmp
    | .none | .emitBmp | .emitPcx => .none
  else .none

/-- A primitive up to its loop; the scale flag is that of the latched word (R36). -/
def enter (st : Stage) (s : State) : State :=
  match st with
  | .none    => s
  | .load    => loadEnter s
  | .unpack  => unpackEnter s
  | .upscale => upscaleEnter s
  | .emitBmp => if scaleOf s.cmdreg then emitBmpSEnter s else emitBmpREnter s
  | .emitPcx => emitPcxEnter s

/-- The end of a primitive: the next one of the chain begins, or the command completes (R67 (a)). -/
def finishPrimitive (s : State) : State :=
  match nextStage s.cmdreg s.stage with
  | .none => s.complete
  | st    => enter st s

/-- `ROW` and `COL` are at the last iteration of their loops. -/
def atLast (lastCol : BitVec 6) (s : State) : Bool := s.row == 63 && s.col == lastCol

/-- The next iteration of `for ROW in 0..63: for COL in 0..lastCol`. -/
def advance (lastCol : BitVec 6) (s : State) : State :=
  if s.col = lastCol then { s with row := s.row + 1, col := 0 } else { s with col := s.col + 1 }

/-- One `take()` of LOAD (R44): the end of the source raises SourceReadError(INCNT) and leaves `RAW` unspecified (U2), else one byte is consumed and, in
columns 0 to 59, stored. -/
def loadBeat (s : State) : State :=
  match s.input with
  | [] => s.forgetRaw.raise .sourceReadError (s.incnt.setWidth 16)
  | v :: rest =>
    let s' := { s with
      input := rest, incnt := s.incnt + 1
      raw := if s.col.toNat < 60 then s.raw.write (rawIndex s.row.toNat s.col.toNat) v else s.raw }
    if atLast 63 s then finishPrimitive { s' with rawV := true } else advance 63 s'

/-- One packed byte of UNPACK: one read, eight writes at `IDX` (R46). -/
def unpackBeat (s : State) : State :=
  let v := s.read .raw (rawIndex (63 - s.row.toNat) s.col.toNat)
  let s' := { s with unp := s.unp.writeAll (byteWrites s.idx.toNat v), idx := s.idx + 8 }
  if atLast 59 s then finishPrimitive { s' with unpV := true } else advance 59 s'

/-- One source pixel of UPSCALE: `START` moved, one read, up to nine writes (R50). -/
def upscaleBeat (s : State) : State :=
  let start' := nextStart s.idx.toNat s.start.toInt
  let p := s.read .unp s.idx.toNat
  let s' := { s with scl := s.scl.writeAll (spreadWrites start' p), start := BitVec.ofInt 20 start' }
  if s.idx = 30719 then finishPrimitive { s' with sclV := true } else { s' with idx := s.idx + 1 }

/-- What `OUT_DATA` and `OUT_LAST` show while a byte is present; `none` while `OUT_VALID` is 0 (R19, R43): the byte at
file offset `OUTCNT` of the emission under way (R58, R59, R64). -/
def State.nextOut (s : State) : Option (Byte × Bool) :=
  let o := s.outcnt.toNat
  match s.phase, s.stage with
  | .run, .emitBmp =>
    let scale := scaleOf s.cmdreg
    if o < 146 then some ((bmpHeader s.params scale).getD o 0, false)
    else if scale then some (s.read .scl (o - 146), o - 146 == 276479)
    else some (s.read .raw (rawIndex (63 - s.row.toNat) s.col.toNat), atLast 59 s)
  | .run, .emitPcx =>
    if o < 128 then some (s.params.pcxHdr.toList.getD o 0, false)
    else if (o - 128) % 2 = 0 then some (pcxRun, false)
    else some (s.read .raw (rawIndex s.row.toNat s.col.toNat), atLast 59 s)
  | _, _ => none

/-- The byte an emission offers ends an iteration of its `ROW` and `COL` loops (R58, R64). -/
def State.endsIteration (s : State) : Bool :=
  let o := s.outcnt.toNat
  match s.stage with
  | .emitBmp => !scaleOf s.cmdreg && decide (146 ≤ o)
  | .emitPcx => decide (128 ≤ o) && (o - 128) % 2 == 1
  | _ => false

/-- One `emit` (R43, R58, R59, R64): the byte offered is appended, with its mark. -/
def emitBeat (s : State) : State :=
  match s.nextOut with
  | none => s
  | some out =>
    let s' := { s with output := s.output ++ [out], outcnt := s.outcnt + 1 }
    if out.2 then finishPrimitive s' else if s.endsIteration then advance 59 s' else s'

/-- The working registers of a running command are in the ranges R12 gives them inside the loop of its primitive. -/
def State.inRange (s : State) : Bool :=
  match s.stage with
  | .none    => false
  | .load    => s.incnt.toNat < 4096
  | .unpack  => s.col.toNat < 60 && s.idx.toNat + 8 ≤ 30720
  | .upscale => s.idx.toNat < 30720
  | .emitBmp =>
    if scaleOf s.cmdreg then s.outcnt.toNat < 276626 else s.col.toNat < 60 && s.outcnt.toNat < 3986
  | .emitPcx => s.col.toNat < 60 && s.outcnt.toNat < 7808

/-- One beat of the primitive that runs. -/
def beatBody (s : State) : State :=
  match s.stage with
  | .none    => s
  | .load    => loadBeat s
  | .unpack  => unpackBeat s
  | .upscale => upscaleBeat s
  | .emitBmp => emitBeat s
  | .emitPcx => emitBeat s

/-- One beat of a running command. A running state outside R12's ranges has no meaning in the spec and stops (log 11). -/
def beat (s : State) : Host.Outcome State Fault Refusal :=
  if s.inRange then .next (beatBody s) else .fault .strayWorkingRegister

/-- Up to `n` beats, until no command runs. -/
def runBeats : Nat → State → Host.Outcome State Fault Refusal
  | 0, s => .next s
  | n + 1, s =>
    if s.phase = .run then
      match beat s with
      | .next s' => runBeats n s'
      | o => o
    else .next s

/-- A `START` pulse with a legal word: accepted while idle, and the first primitive runs up to its loop; otherwise
ignored (R86). -/
def begin (w : Byte) (s : State) : State :=
  if s.phase = .idle then enter (firstStage w) (s.accept w) else s

/-- `IN_READY`: 1 only during LOAD (R19). -/
def State.inReady (s : State) : Bool := s.busy && s.stage == .load

/-- `IN_EOS`: no byte is present and none will ever be (R19); after a reset too, which R19 leaves open (DESIGN CHOICE,
log 16). -/
def State.inEos (s : State) : Bool := s.input.isEmpty

/-- `OUT_VALID`: an output byte is present (R19). -/
def State.outValid (s : State) : Bool := s.nextOut.isSome

/-- `OUT_LAST`: with `OUT_VALID`, the byte present is the last of its file (R19, R43). -/
def State.outLast (s : State) : Bool := s.nextOut.any fun out => out.2

/-- The running primitive waits on a duty of the host: LOAD on the input duty, an emission on the output duty; "no other
wait exists in the block" (R85). -/
def State.waitsOnHost (s : State) : Bool :=
  match s.stage with
  | .load | .emitBmp | .emitPcx => true
  | .none | .unpack | .upscale => false

end Sys2Proof.Machine
end

