-- ==== Sys2Proof/Machine/Dispatch.lean ====
section
/-!
DEFINITION. One arm per command, each one direct call of its meaning.
-/

namespace Sys2Proof.Machine

def exec (i : Instr) (s : State) : Host.Outcome State Fault Refusal :=
  match i with
  | .load => Sys2Proof.Machine.execLoad s
  | .unpack => Sys2Proof.Machine.execUnpack s
  | .upscale => Sys2Proof.Machine.execUpscale s
  | .emitBmpR => Sys2Proof.Machine.execEmitBmpR s
  | .emitBmpS => Sys2Proof.Machine.execEmitBmpS s
  | .emitPcx => Sys2Proof.Machine.execEmitPcx s
  | .convBmpR => Sys2Proof.Machine.execConvBmpR s
  | .convBmpS => Sys2Proof.Machine.execConvBmpS s
  | .convPcx => Sys2Proof.Machine.execConvPcx s

end Sys2Proof.Machine
end

