-- ==== Sys2Proof/Machine/Port.lean ====
section
/-!
DEFINITION. What the block does at each thing the host does (R14, R83 to R86). Machine/Step.lean only calls this.
-/

namespace Sys2Proof.Machine

/-- A script line's strobe: the word is decoded and its command runs to its end, or it is illegal (R38, R40). -/
def strobe (w : Byte) (s : State) : Host.Outcome State Fault Refusal :=
  match decode w with
  | .ok i    => exec i s
  | .error _ => execIllegal w s

/-- A bare `START` pulse: the command begins and what the host does next may land between its beats (R85, R86). -/
def pulse (w : Byte) (s : State) : Host.Outcome State Fault Refusal :=
  match decode w with
  | .ok _    => .next (begin w s)
  | .error _ => execIllegal w s

/-- The ports are left alone: a running command goes on by one beat; otherwise the block "does nothing until START"
(R82). -/
def quiet (s : State) : Host.Outcome State Fault Refusal :=
  if s.phase = .run then beat s else .next s

/-- The host withholds what the running command waits on: nothing changes (R85, U13, U14); UNPACK and UPSCALE wait on
nothing and go on. -/
def stalled (s : State) : Host.Outcome State Fault Refusal :=
  if s.waitsOnHost then .next s else quiet s

/-- One thing the host does. A script line waits while a command runs: the host issues it after completion only (R40). -/
def react (e : HostEvent) (rest : List HostEvent) (s : State) : Host.Outcome State Fault Refusal :=
  match e with
  | .issue w => if s.phase = .run then quiet s else strobe w { s with host := rest }
  | .pulse w => pulse w { s with host := rest }
  | .tick    => quiet { s with host := rest }
  | .stall   => stalled { s with host := rest }
  | .sink ok => .next { s with host := rest, sinkOk := ok }
  | .rst     => .next (State.hardReset { s with host := rest })

/-- Before `RST` has been 1 no rule applies and nothing but reset is given a meaning (R84 (a), U8; log 10). -/
def reactBeforeReset (s : State) : Host.Outcome State Fault Refusal :=
  match s.host with
  | .rst :: rest => .next (State.hardReset { s with host := rest })
  | _ => .refused .beforeFirstReset

/-- What the block does next; a host that has nothing more to do leaves the ports alone. -/
def hostStep (s : State) : Host.Outcome State Fault Refusal :=
  if s.resetSeen then
    match s.host with
    | []        => quiet s
    | e :: rest => react e rest s
  else reactBeforeReset s

/-- The state in which the host's next act is to issue the command of this word to an idle block (log 5). -/
def offerWord (w : Byte) (s : State) : State :=
  { s with phase := .idle, resetSeen := true, host := .issue w :: s.host }

end Sys2Proof.Machine
end

