-- ==== Sys2Proof/Machine/Step.lean ====
section
/-!
DEFINITION. One step of the machine: the host's next act and what the block does with it.
-/

namespace Sys2Proof.Machine

/-- One step. A script line runs a whole command (R6: the normative level); below command level a step is one beat. -/
def step (s : State) : Host.Outcome State Fault Refusal := hostStep s

/-- `s` with the instruction of `nbits` bits `w` placed where the next step takes its command: the block has no
instruction memory, a command is a byte the host strobes while the block is idle (R12, R32; log 5). -/
def State.withFetchWord (s : State) (nbits w : Nat) : State := offerWord (BitVec.ofNat 8 (w % 2 ^ nbits)) s

end Sys2Proof.Machine
end

