-- ==== Sys2Proof/Machine/Script.lean ====
section
/-!
DEFINITION. Command scripts: one mnemonic a line, comments from `;` to the end of the line (R40), and the
pseudo-commands, which are other spellings of a command or of a sequence of commands (R41).
-/

namespace Sys2Proof.Machine

/-- The mnemonics of R37. -/
def mnemonic : Instr → List Char
  | .load     => "LOAD".toList
  | .unpack   => "UNPACK".toList
  | .upscale  => "UPSCALE".toList
  | .emitBmpR => "EMITBMP.R".toList
  | .emitBmpS => "EMITBMP.S".toList
  | .emitPcx  => "EMITPCX".toList
  | .convBmpR => "CONVBMP.R".toList
  | .convBmpS => "CONVBMP.S".toList
  | .convPcx  => "CONVPCX".toList

/-- The pseudo-commands of R41. -/
inductive Pseudo where
  | convert          -- CONVERT
  | convertRawsize   -- CONVERT.RAWSIZE
  | emitBmpScale1    -- EMITBMP scale=1
  | emitBmpScale0    -- EMITBMP scale=0
  | scaleBmp         -- SCALEBMP
  deriving DecidableEq, Repr

/-- The spellings of the pseudo-commands (R41). -/
def Pseudo.spelling : Pseudo → List Char
  | .convert        => "CONVERT".toList
  | .convertRawsize => "CONVERT.RAWSIZE".toList
  | .emitBmpScale1  => "EMITBMP scale=1".toList
  | .emitBmpScale0  => "EMITBMP scale=0".toList
  | .scaleBmp       => "SCALEBMP".toList

/-- What each pseudo-command expands to (R41). -/
def Pseudo.expand : Pseudo → List Instr
  | .convert        => [.convBmpS]
  | .convertRawsize => [.convBmpR]
  | .emitBmpScale1  => [.emitBmpS]
  | .emitBmpScale0  => [.emitBmpR]
  | .scaleBmp       => [.load, .unpack, .upscale, .emitBmpS]

/-- Every spelling a script line may hold, with the commands it stands for (R37, R41). -/
def spellings : List (List Char × List Instr) :=
  ([.load, .unpack, .upscale, .emitBmpR, .emitBmpS, .emitPcx, .convBmpR, .convBmpS, .convPcx].map
    fun i => (mnemonic i, [i]))
  ++ ([.convert, .convertRawsize, .emitBmpScale1, .emitBmpScale0, .scaleBmp].map
    fun p => (Pseudo.spelling p, p.expand))

/-- The lines of a text. -/
def linesOf : List Char → List (List Char)
  | [] => [[]]
  | c :: cs =>
    match linesOf cs with
    | [] => [[]]
    | l :: ls => if c = '\n' then [] :: l :: ls else (c :: l) :: ls

/-- A line without its comment and the blanks around what is left. R40 writes an example as `LOAD; UNPACK` and also makes
`;` start a comment; here `;` is a comment only, so that text as one line is LOAD alone (DESIGN CHOICE, log 14). -/
def stripLine (l : List Char) : List Char :=
  let blank := fun c : Char => c == ' ' || c == '\t' || c == '\r'
  (((l.takeWhile (· != ';')).dropWhile blank).reverse.dropWhile blank).reverse

/-- The commands of one line: none on an empty line, `none` where the line is no spelling of R37 or R41. -/
def lineCommands (l : List Char) : Option (List Instr) :=
  match stripLine l with
  | [] => some []
  | w  => (spellings.find? (fun e => e.1 == w)).map Prod.snd

/-- "The encoding of a script is the list of its command bytes in order" (R40). -/
def assemble (text : List Char) : Option (List Byte) :=
  ((linesOf text).mapM lineCommands).map fun is => is.flatten.map encode

/-- A script as what the host does: each command issued after the one before it has completed (R40). A latched fault stops
the script, since nothing issued after it is accepted (R78, R86). -/
def scriptEvents (ws : List Byte) : List HostEvent := ws.map .issue

end Sys2Proof.Machine
end

