-- ==== Sys2Proof/Safety.lean ====
section
/-!
DEFINITION. What the claims speak of: the value each rule gives a buffer cell (R46, R49, R53), what a state of the block
looks like between and inside commands (R12, R13, R71, R76), and when a set valid flag tells the truth (R13).
-/

namespace Sys2Proof.Safety

open Sys2Proof.Machine

/-- `UNP[r][c]` as R46's closed form gives it from `RAW`, by flat index `a` = `r*480 + c`. -/
def unpackedCell (s : State) (a : Nat) : Byte := s.bitGrid (63 - a / 480) (a % 480)

/-- The flat `UNP` index that the plain 3x tiling puts at destination cell `e`: `TILE[e] = UNP[(e/1440)/3][(e%1440)/3]`
(R53). -/
def tileSource (e : Nat) : Nat := unpIndex (e / 1440 / 3) (e % 1440 / 3)

/-- The anchor of source pixel `idx` (R50): the middle row of its three destination rows, at column `3c`. -/
def anchor (idx : Nat) : Nat := (3 * (idx / 480) + 1) * 1440 + 3 * (idx % 480)

/-- What cell `d` of `SCL` holds once the first `n` source pixels have been spread over a cleared buffer (R50, R53):
the plain tiling moved one cell toward lower flat indices, and 0x00 in the one cell no spread reaches. -/
def spreadCell (s : State) (n d : Nat) : Byte :=
  if d < 276479 ∧ tileSource (d + 1) < n then s.read .unp (tileSource (d + 1)) else 0x00

/-- The place of a running command: the working registers of R12 agree with one another, and the operand gate of the
primitive that runs has passed (R13, R44, R46, R50, R58, R59, R64). -/
def Placed (s : State) : Prop :=
  match s.stage with
  | .none => False
  | .load =>
    s.rawV = false ∧ s.unpV = false ∧ s.sclV = false ∧ s.incnt.toNat = s.row.toNat * 64 + s.col.toNat
  | .unpack =>
    s.rawV = true ∧ s.unpV = false ∧ s.sclV = false ∧ s.col.toNat < 60 ∧ s.idx.toNat = s.row.toNat * 480 + s.col.toNat * 8
  | .upscale => s.unpV = true ∧ s.sclV = false ∧ s.idx.toNat < 30720
  | .emitBmp =>
    if scaleOf s.cmdreg then s.sclV = true ∧ s.outcnt.toNat < 276626
    else s.rawV = true ∧ s.col.toNat < 60 ∧
      (s.outcnt.toNat < 146 ∧ s.row = 0 ∧ s.col = 0 ∨ s.outcnt.toNat = 146 + s.row.toNat * 60 + s.col.toNat)
  | .emitPcx =>
    s.rawV = true ∧ s.col.toNat < 60 ∧
      (s.outcnt.toNat < 128 ∧ s.row = 0 ∧ s.col = 0 ∨
        (s.outcnt.toNat = 128 + 2 * (s.row.toNat * 60 + s.col.toNat) ∨
          s.outcnt.toNat = 129 + 2 * (s.row.toNat * 60 + s.col.toNat)))

/-- What a state of the block looks like after reset, between commands and inside them. -/
structure Safe (s : State) : Prop where
  /-- the buffers have their canonical form -/
  rawWf : Memory.wf 3840 s.raw
  unpWf : Memory.wf 30720 s.unp
  sclWf : Memory.wf 276480 s.scl
  /-- a derived buffer is valid only with the buffer it was derived from (R13, R87) -/
  unpRaw : s.unpV = true → s.rawV = true
  sclUnp : s.sclV = true → s.unpV = true
  /-- `DONE` stands only while idle (R13, R14) -/
  doneIdle : s.done = true → s.phase = .idle
  /-- idle: no primitive, no fault latched (R12, R22) -/
  idle : s.phase = .idle → s.stage = .none ∧ s.err = 0 ∧ s.errinfo = 0
  /-- running: no fault latched, the working registers in place -/
  run : s.phase = .run → s.err = 0 ∧ s.errinfo = 0 ∧ Placed s
  /-- a latched fault has one of the four codes (R71) -/
  fault : s.phase = .fault → 1 ≤ s.err.toNat ∧ s.err.toNat ≤ 4

/-- What the running primitive has written so far of the buffer it produces (R44, R46, R50). -/
def Progress (s : State) : Prop :=
  match s.stage with
  | .none | .emitBmp | .emitPcx => True
  | .load => ∀ k < s.incnt.toNat, k % 64 < 60 → (s.raw.cell? (rawIndex (k / 64) (k % 64))).isSome
  | .unpack => ∀ a < s.idx.toNat, s.unp.cell? a = some (unpackedCell s a)
  | .upscale =>
    (∀ d < 276480, s.scl.cell? d = some (spreadCell s s.idx.toNat d)) ∧
      (s.idx.toNat % 480 ≠ 0 → s.start.toInt = anchor (s.idx.toNat - 1))

/-- "A set valid flag means: the buffer holds exactly the value the producing command's rule gives for the buffer it was
computed from" (R13). `RAW` was computed from bytes since consumed: all of it has been written. -/
structure Truthful (s : State) : Prop where
  raw : s.rawV = true → ∀ a < 3840, (s.raw.cell? a).isSome
  unp : s.unpV = true → ∀ a < 30720, s.unp.cell? a = some (unpackedCell s a)
  scl : s.sclV = true → ∀ d < 276480, s.scl.cell? d = some (spreadCell s 30720 d)
  /-- a running producer is on its way there -/
  run : s.phase = .run → Progress s

/-- Everything that is the host's, the build's or the model's own is the same in two states, but for `rawEpoch`, which a
failed LOAD advances and a read of `RAW` shows (log 8). -/
structure SameOutside (s t : State) : Prop where
  sinkOk : t.sinkOk = s.sinkOk
  host : t.host = s.host
  params : t.params = s.params
  epoch : t.epoch = s.epoch
  resetSeen : t.resetSeen = s.resetSeen

/-- All of a buffer reads the same in two states. -/
def SameBuffer (b : Buffer) (s t : State) : Prop := ∀ a, t.read b a = s.read b a

end Sys2Proof.Safety
end

