-- ==== Sys2Proof/Certificates/Slice0/Obligations.lean ====
section
/-!
DEFINITION. The statements for the provers. Each docstring says which rule of spec/ it formalises. A statement about
every state also holds in states no run reaches, or names the invariant that rules them out.
-/

section

open Sys2Proof Sys2Proof.Machine Sys2Proof.Safety

/-! ## Encoding and decoding (R35 to R39) -/

/-- R37: nine words are legal, each with its command, and no others. -/
def Obligations.LegalWordsAreTheNineOfTheMap : Prop :=
  ∀ (w : Byte) (i : Instr), decode w = .ok i ↔
    (w = 0x01 ∧ i = .load) ∨ (w = 0x02 ∧ i = .unpack) ∨ (w = 0x03 ∧ i = .upscale) ∨
    (w = 0x04 ∧ i = .emitBmpR) ∨ (w = 0x0C ∧ i = .emitBmpS) ∨ (w = 0x05 ∧ i = .emitPcx) ∨
    (w = 0x14 ∧ i = .convBmpR) ∨ (w = 0x1C ∧ i = .convBmpS) ∨ (w = 0x15 ∧ i = .convPcx)

/-- Decoding what was encoded gives it back, and only the encoding of a command decodes to it. -/
def Obligations.DecodeInvertsEncode : Prop :=
  (∀ i : Instr, decode (encode i) = .ok i) ∧ (∀ (w : Byte) (i : Instr), decode w = .ok i → w = encode i)

/-- R38: a word is illegal exactly when one of the four classes holds, there are 247 of them, and an illegal word
accepted while idle raises IllegalCommand and does nothing else; otherwise it is not decoded at all. -/
def Obligations.IllegalWordsFaultByClass : Prop :=
  (∀ w : Byte, (∃ e, decode w = .error e) ↔
    (fieldsOf w).op = 0 ∨ (fieldsOf w).op = 6 ∨ (fieldsOf w).op = 7 ∨ (fieldsOf w).z ≠ 0 ∨
    ((fieldsOf w).s = true ∧ (fieldsOf w).op ≠ 4) ∨
    ((fieldsOf w).c = true ∧ (fieldsOf w).op ≠ 4 ∧ (fieldsOf w).op ≠ 5)) ∧
  ((List.range 256).filter fun n => (decode (BitVec.ofNat 8 n)).toOption.isNone).length = 247 ∧
  (∀ (w : Byte) (e : Illegal) (s : State), decode w = .error e →
    (s.phase = .idle → strobe w s = .next { s with
      phase := .fault, cmdreg := w, done := false, err := 3, errinfo := w.setWidth 16 }) ∧
    (s.phase ≠ .idle → strobe w s = .next s))

/-- A sanity statement (R37): words written out bit by bit decode to the commands they stand for, and samples of each
illegal class (V10) do not decode. -/
def Obligations.SampleWordsDecode : Prop :=
  decodeTableWord 8 0b00000001 = some .load ∧ decodeTableWord 8 0b00000010 = some .unpack ∧
  decodeTableWord 8 0b00000011 = some .upscale ∧ decodeTableWord 8 0b00001100 = some .emitBmpS ∧
  decodeTableWord 8 0b00000101 = some .emitPcx ∧ decodeTableWord 8 0b00010100 = some .convBmpR ∧
  decodeTableWord 8 0b00000110 = none ∧ decodeTableWord 8 0b00001101 = none ∧ decodeTableWord 8 0b00010001 = none ∧ decodeTableWord 8 0b00100001 = none

/-! ## The step -/

/-- A step runs the decoded instruction: when the host's next act is to issue a word that decodes to `i` and no command
runs, the step is `exec i`, with the act taken off the host's list and nothing else added. -/
def Obligations.StepRunsTheIssuedCommand : Prop :=
  ∀ (s : State) (w : Byte) (i : Instr) (rest : List HostEvent),
    s.resetSeen = true → s.phase ≠ .run → s.host = .issue w :: rest → decode w = .ok i →
    step s = exec i { s with host := rest }

/-- What one step is for the other things the host does (R38, R82, R85, R86; the acts and the beats are the model's, logs
5 and 6): a running command goes on by one beat under silence, under a line that is issued later, and under a stall it
does not wait on; a sink level is taken over; an idle or faulted block left alone does nothing. An issued illegal word is
strobed; a bare pulse of a legal word begins its command in an idle block, and one of an illegal word faults there.
StepRunsTheIssuedCommand has the issued legal words, StrobeWhileNotIdleIsIgnored the pulses at a block that is not idle,
StalledCommandWaits the stalls that are waited on, ResetFromAnyState the resets. -/
def Obligations.StepFollowsTheHost : Prop :=
  ∀ (s : State) (rest : List HostEvent), s.resetSeen = true →
    (s.host = [] → s.phase ≠ .run → step s = .next s) ∧
    (s.host = [] → s.phase = .run → step s = beat s) ∧
    (∀ w, s.host = .issue w :: rest → s.phase = .run → step s = beat s) ∧
    (s.host = .tick :: rest → s.phase = .run → step s = beat { s with host := rest }) ∧
    (s.host = .tick :: rest → s.phase ≠ .run → step s = .next { s with host := rest }) ∧
    (s.host = .stall :: rest → s.phase = .run → s.waitsOnHost = false → step s = beat { s with host := rest }) ∧
    (s.host = .stall :: rest → s.phase ≠ .run → step s = .next { s with host := rest }) ∧
    (∀ ok, s.host = .sink ok :: rest → step s = .next { s with host := rest, sinkOk := ok }) ∧
    (∀ w e, s.host = .issue w :: rest → s.phase ≠ .run → decode w = .error e →
      step s = strobe w { s with host := rest }) ∧
    (∀ w i, s.host = .pulse w :: rest → s.phase = .idle → decode w = .ok i →
      step s = .next (begin w { s with host := rest })) ∧
    (∀ w e, s.host = .pulse w :: rest → s.phase = .idle → decode w = .error e → step s = .next { s with
      host := rest, phase := .fault, cmdreg := w, done := false, err := 3, errinfo := w.setWidth 16 })

/-- R86 and R78: while a command runs or a fault is latched a command strobe is ignored entirely: the word is not
latched, not decoded, raises nothing, is not queued. That a pulse takes a step of its own, in which a running command makes
no progress, is the model's choice (log 5). -/
def Obligations.StrobeWhileNotIdleIsIgnored : Prop :=
  (∀ (s : State) (i : Instr), s.phase ≠ .idle → exec i s = .next s) ∧
  (∀ (s : State) (w : Byte) (rest : List HostEvent), s.resetSeen = true → s.phase ≠ .idle →
    s.host = .pulse w :: rest → step s = .next { s with host := rest })

/-- R85: a host that withholds what the running command waits on (the input duty of LOAD, the output duty of an emission)
leaves everything as it is, however often it does so; there is no time-out. -/
def Obligations.StalledCommandWaits : Prop :=
  ∀ (n : Nat) (s : State) (rest : List HostEvent), s.resetSeen = true → s.phase = .run → s.waitsOnHost = true →
    s.host = List.replicate n .stall ++ rest → core.run n s = .next { s with host := rest }

/-- R84 (a): before `RST` has been 1 no rule applies: everything but a reset is refused. -/
def Obligations.NothingRunsBeforeTheFirstReset : Prop :=
  ∀ s : State, s.resetSeen = false → (∀ rest, s.host ≠ .rst :: rest) → step s = .refused .beforeFirstReset

/-! ## Reset and status (R13, R14, R22, R79, R83) -/

/-- R22: the state after reset. The buffers are unspecified: every cell reads as a free value (log 2). -/
def Obligations.ResetValues : Prop :=
  let s := State.reset
  s.phase = .idle ∧ s.cmdreg = 0x00 ∧ s.stage = .none ∧
  s.row = 0 ∧ s.col = 0 ∧ s.incnt = 0 ∧ s.idx = 0 ∧ s.start = 0 ∧ s.outcnt = 0 ∧
  s.rawV = false ∧ s.unpV = false ∧ s.sclV = false ∧ s.done = false ∧ s.err = 0 ∧ s.errinfo = 0x0000 ∧
  s.status = 0x00 ∧ s.irq = false ∧ s.outValid = false ∧ s.outLast = false ∧ s.inReady = false ∧
  (∀ b a, s.read b a = Config.unwritten (s.drawOf b) b a)

/-- R83: `RST` takes every register to its reset value whatever the block was doing, a running command is abandoned, a
latched fault is cleared; what was emitted stays emitted, what was consumed stays consumed; the buffers are unspecified
again. That an unspecified cell reads as the free value of the next draw is logs 2 and 3, that the reset is an act taken
off the host's list is log 5, that nothing new is put on the input is log 16. -/
def Obligations.ResetFromAnyState : Prop :=
  ∀ (s : State) (rest : List HostEvent), s.host = .rst :: rest → ∃ t, step s = .next t ∧
    t.phase = .idle ∧ t.cmdreg = 0x00 ∧ t.stage = .none ∧
    t.row = 0 ∧ t.col = 0 ∧ t.incnt = 0 ∧ t.idx = 0 ∧ t.start = 0 ∧ t.outcnt = 0 ∧
    t.rawV = false ∧ t.unpV = false ∧ t.sclV = false ∧ t.done = false ∧ t.err = 0 ∧ t.errinfo = 0x0000 ∧
    t.status = 0x00 ∧ t.irq = false ∧ t.outValid = false ∧ t.outLast = false ∧ t.inReady = false ∧
    t.input = s.input ∧ t.output = s.output ∧ t.params = s.params ∧ t.host = rest ∧
    (∀ b a, t.read b a = Config.unwritten (s.drawOf b + 1) b a)

/-- R14: the bits of `STATUS`, least significant first. -/
def Obligations.StatusBits : Prop :=
  ∀ s : State,
    s.status.getLsbD 0 = decide (s.phase = .run) ∧ s.status.getLsbD 1 = s.done ∧
    s.status.getLsbD 2 = decide (s.phase = .fault) ∧ s.status.getLsbD 3 = s.rawV ∧
    s.status.getLsbD 4 = s.unpV ∧ s.status.getLsbD 5 = s.sclV ∧
    s.status.getLsbD 6 = false ∧ s.status.getLsbD 7 = false

/-- R14: at most one of `BUSY`, `DONE`, `FAULT` is 1, in every safe state (EveryStepKeepsTheBlockSafe). -/
def Obligations.AtMostOneOfBusyDoneFault : Prop :=
  ∀ s : State, Safe s →
    ¬ (s.busy = true ∧ s.done = true) ∧ ¬ (s.busy = true ∧ s.faulted = true) ∧ ¬ (s.done = true ∧ s.faulted = true)

/-- R79: `IRQ` is `DONE` or FAULT; a command of an idle block ends with it up, whether it completes or faults; it is
down from the acceptance of a command on, as long as the command runs, and after reset. -/
def Obligations.IrqFollowsDoneAndFault : Prop :=
  (∀ s : State, s.irq = true ↔ s.done = true ∨ s.phase = .fault) ∧
  (∀ (s : State) (w : Byte), s.phase = .idle → ∃ t, strobe w s = .next t ∧ t.irq = true) ∧
  (∀ (s : State) (w : Byte), (s.accept w).irq = false) ∧
  (∀ s : State, Safe s → s.phase = .run → s.irq = false) ∧
  (∀ s : State, s.hardReset.irq = false)

/-! ## Faults (R71 to R78) -/

/-- R76: fault entry does exactly this: `ERR`, `ERRINFO`, `PHASE`; everything else stands as it was. -/
def Obligations.FaultEntryWritesThreeRegisters : Prop :=
  (∀ (s : State) (e : Cause) (info : BitVec 16),
    s.raise e info = { s with err := e.code, errinfo := info, phase := .fault }) ∧
  Cause.code .sourceReadError = 1 ∧ Cause.code .destinationWriteError = 2 ∧
  Cause.code .illegalCommand = 3 ∧ Cause.code .operandNotValid = 4

/-- R75: a stand-alone primitive whose source buffer is invalid raises OperandNotValid with the command word, before it
clears a flag, samples the sink or touches a buffer; only `STAGE` already names the primitive. -/
def Obligations.InvalidOperandFaultsFirst : Prop :=
  ∀ (i : Instr) (st : Stage) (b : Buffer) (s : State),
    (i, st, b) ∈ [(Instr.unpack, Stage.unpack, Buffer.raw), (.upscale, .upscale, .unp), (.emitBmpR, .emitBmp, .raw),
      (.emitBmpS, .emitBmp, .scl), (.emitPcx, .emitPcx, .raw)] →
    s.phase = .idle → s.valid b = false →
    exec i s = .next { s with
      phase := .fault, cmdreg := encode i, stage := st, done := false, err := 4, errinfo := (encode i).setWidth 16 }

/-- R73, stand-alone emissions: a refusing sink raises DestinationWriteError(0) after the operand test; no byte has been
emitted, buffers and valid flags are as they were. -/
def Obligations.RefusingSinkFaults : Prop :=
  ∀ (i : Instr) (st : Stage) (b : Buffer) (s : State),
    (i, st, b) ∈ [(Instr.emitBmpR, Stage.emitBmp, Buffer.raw), (.emitBmpS, .emitBmp, .scl), (.emitPcx, .emitPcx, .raw)] →
    s.phase = .idle → s.valid b = true → s.sinkOk = false →
    exec i s = .next { s with
      phase := .fault, cmdreg := encode i, stage := st, done := false, err := 2, errinfo := 0x0000 }

/-- R72: with fewer than 4096 bytes left LOAD, alone or first in a chain, consumes them all and raises
SourceReadError with their number; the valid flags are 0, `RAW` is unspecified (a fresh free value in every cell, logs 3 and 8),
nothing is emitted, and the sink is not asked: its level makes no difference. -/
def Obligations.ShortSourceFaults : Prop :=
  ∀ (i : Instr) (s : State), i ∈ [Instr.load, .convBmpR, .convBmpS, .convPcx] →
    s.phase = .idle → s.input.length < 4096 → ∃ t, exec i s = .next t ∧
      t.phase = .fault ∧ t.err = 1 ∧ t.errinfo.toNat = s.input.length ∧ t.stage = .load ∧ t.cmdreg = encode i ∧
      t.done = false ∧ t.rawV = false ∧ t.unpV = false ∧ t.sclV = false ∧ t.input = [] ∧ t.output = s.output ∧
      (∀ a, t.read .raw a = Config.unwritten (s.rawEpoch + 1) .raw a) ∧
      (∀ ok, exec i { s with sinkOk := ok } = .next { t with sinkOk := ok })

/-- R78: a latched fault stays, with its code and value, and the block accepts, emits and consumes nothing; every step
but a reset. -/
def Obligations.FaultIsSticky : Prop :=
  ∀ s : State, s.resetSeen = true → s.phase = .fault → (∀ rest, s.host ≠ .rst :: rest) →
    ∃ t, step s = .next t ∧ t = { s with host := t.host, sinkOk := t.sinkOk }

/-- R78: only reset leaves the fault state. -/
def Obligations.OnlyResetLeavesFault : Prop :=
  ∀ s t : State, s.phase = .fault → step s = .next t → t.phase ≠ .fault → ∃ rest, s.host = .rst :: rest

/-! ## LOAD (R42, R44, R45) -/

/-- R44 with at least 4096 bytes: exactly 4096 are consumed, `RAW[r][b]` is input byte `r*64 + b`, the derived buffers
are invalid, the command completes. -/
def Obligations.LoadStoresTheFrame : Prop :=
  ∀ s : State, s.phase = .idle → 4096 ≤ s.input.length → ∃ t, exec .load s = .next t ∧
    (∀ r < 64, ∀ b < 60, s.input[r * 64 + b]? = some (t.read .raw (rawIndex r b))) ∧
    t.input = s.input.drop 4096 ∧ t.output = s.output ∧
    t.rawV = true ∧ t.unpV = false ∧ t.sclV = false ∧ t.done = true ∧
    t.phase = .idle ∧ t.stage = .none ∧ t.cmdreg = 0x01 ∧ t.err = s.err ∧ t.errinfo = s.errinfo

/-- R45 (b): LOAD's result does not depend on the 256 padding bytes. -/
def Obligations.LoadIgnoresPadding : Prop :=
  ∀ (s : State) (d d' rest : List Byte), d.length = 4096 → d'.length = 4096 →
    (∀ k < 4096, k % 64 < 60 → d[k]? = d'[k]?) →
    exec .load { s with phase := .idle, input := d ++ rest } = exec .load { s with phase := .idle, input := d' ++ rest }

/-- R45 (c), R20: after a successful LOAD the BitGrid view is the bits of the consumed bytes. -/
def Obligations.LoadGivesTheBitGrid : Prop :=
  ∀ (s : State) (d rest : List Byte), s.phase = .idle → s.input = d ++ rest → d.length = 4096 →
    ∃ t, exec .load s = .next t ∧ t.input = rest ∧
      ∀ r < 64, ∀ c < 480, t.bitGrid r c = (d.getD (r * 64 + c / 8) 0 >>> (7 - c % 8)) &&& 1

/-- R34, R45 (a), frame of LOAD: it touches no other buffer, no output, no working register of another command; where the
source is too short `RAW` is unspecified (ShortSourceFaults). -/
def Obligations.LoadFrame : Prop :=
  ∀ s t : State, exec .load s = .next t →
    SameOutside s t ∧ SameBuffer .unp s t ∧ SameBuffer .scl s t ∧
    (s.phase ≠ .idle ∨ 4096 ≤ s.input.length → ∀ a, (∀ r < 64, ∀ b < 60, a ≠ rawIndex r b) → t.read .raw a = s.read .raw a) ∧
    t.output = s.output ∧ t.idx = s.idx ∧ t.start = s.start ∧ t.outcnt = s.outcnt ∧
    (t.phase ≠ .fault → t.err = s.err ∧ t.errinfo = s.errinfo)

/-! ## UNPACK (R46 to R48) -/

/-- R46: with a valid `RAW`, `UNP[r][c]` is `BitGrid[63-r][c]`; flags and completion. -/
def Obligations.UnpackFlipsAndExpands : Prop :=
  ∀ s : State, s.phase = .idle → s.rawV = true → ∃ t, exec .unpack s = .next t ∧
    (∀ r < 64, ∀ c < 480, t.read .unp (unpIndex r c) = s.bitGrid (63 - r) c) ∧
    t.rawV = true ∧ t.unpV = true ∧ t.sclV = false ∧ t.done = true ∧
    t.phase = .idle ∧ t.stage = .none ∧ t.cmdreg = 0x02 ∧ t.err = s.err ∧ t.errinfo = s.errinfo

/-- R47: the round trip. After LOAD; UNPACK on input bytes `d`, `UNP[r][c]` is the bit of the flipped row. -/
def Obligations.LoadThenUnpackRoundTrip : Prop :=
  ∀ (s : State) (d rest : List Byte), s.phase = .idle → s.input = d ++ rest → d.length = 4096 →
    ∃ t u, exec .load s = .next t ∧ exec .unpack t = .next u ∧
      ∀ r < 64, ∀ c < 480, u.read .unp (unpIndex r c) = (d.getD ((63 - r) * 64 + c / 8) 0 >>> (7 - c % 8)) &&& 1

/-- R48: the result is a function of `RAW` alone, UNPACK twice gives the same grid, and repacking gives `RAW` back. -/
def Obligations.UnpackIsPureAndInvertible : Prop :=
  (∀ s s' t t' : State, s.phase = .idle → s'.phase = .idle → s.rawV = true → s'.rawV = true →
    (∀ r < 64, ∀ b < 60, s.read .raw (rawIndex r b) = s'.read .raw (rawIndex r b)) →
    exec .unpack s = .next t → exec .unpack s' = .next t' →
    ∀ a < 30720, t.read .unp a = t'.read .unp a) ∧
  (∀ s t u : State, s.phase = .idle → s.rawV = true → exec .unpack s = .next t → exec .unpack t = .next u →
    SameBuffer .unp t u) ∧
  (∀ s t : State, s.phase = .idle → s.rawV = true → exec .unpack s = .next t → ∀ r < 64, ∀ b < 60,
    (t.read .raw (rawIndex (63 - r) b)).toNat
      = ((List.range 8).map fun k => (t.read .unp (unpIndex r (8 * b + k))).toNat * 2 ^ (7 - k)).sum)

/-- R34, frame of UNPACK. -/
def Obligations.UnpackFrame : Prop :=
  ∀ s t : State, exec .unpack s = .next t →
    SameOutside s t ∧ SameBuffer .raw s t ∧ SameBuffer .scl s t ∧
    (∀ a, (∀ r < 64, ∀ b < 60, ∀ k < 8, a ≠ unpIndex r (b * 8) + k) → t.read .unp a = s.read .unp a) ∧
    t.input = s.input ∧ t.output = s.output ∧ t.rawV = s.rawV ∧
    t.incnt = s.incnt ∧ t.start = s.start ∧ t.outcnt = s.outcnt ∧
    (t.phase ≠ .fault → t.err = s.err ∧ t.errinfo = s.errinfo)

/-! ## UPSCALE (R49 to R54, R89, R90) -/

/-- R49: the nine offsets are `dy*1440 + dx` for `dy`, `dx` in -1, 0, 1, in reading order. -/
def Obligations.StencilIsNeighbourhood : Prop :=
  delta.length = 9 ∧ ∀ (dy dx : Fin 3), delta[3 * dy.val + dx.val]? = some (((dy.val : Int) - 1) * 1440 + ((dx.val : Int) - 1))

/-- R51: a spread write is performed exactly when its flat index lies in the buffer, at both ends. -/
def Obligations.SpreadClipsAtBothEnds : Prop :=
  ∀ (start : Int) (p v : Byte) (a : Nat), (a, v) ∈ spreadWrites start p ↔
    v = p ∧ ∃ δ ∈ delta, (a : Int) = start + δ ∧ 0 ≤ start + δ ∧ start + δ < 276480

/-- R52: the anchors of R50's recurrence, whatever `START` held before, and their targets: the least is -1, met once,
the greatest 276478; 276479 of the 276480 candidate writes are performed; 20 bits never overflow. -/
def Obligations.AnchorAndTargetRanges : Prop :=
  (∀ (s0 : Int) (idx : Nat), idx < 30720 →
    let start := (List.range (idx + 1)).foldl (fun st i => nextStart i st) s0
    start = (3 * (idx / 480 : Nat) + 1) * 1440 + 3 * (idx % 480 : Nat) ∧
    1440 ≤ start ∧ start ≤ 275037 ∧ (idx = 0 → start = 1440) ∧ (idx = 30719 → start = 275037) ∧
    (∀ δ ∈ delta, -1 ≤ start + δ ∧ start + δ ≤ 276478 ∧ (start + δ < 0 ↔ idx = 0 ∧ δ = -1441)) ∧
    (BitVec.ofInt 20 start).toInt = start) ∧
  (∀ s : State, (spreadAll s).2.length = 276479)

/-- R53: the closed form. A valid `UNP` is spread into the plain 3x tiling moved one cell toward lower flat indices, with
0x00 in the last cell; flags and completion. -/
def Obligations.UpscaleClosedForm : Prop :=
  ∀ s : State, s.phase = .idle → s.unpV = true → ∃ t, exec .upscale s = .next t ∧
    (∀ d < 276479, t.read .scl d = s.read .unp (unpIndex ((d + 1) / 1440 / 3) ((d + 1) % 1440 / 3))) ∧
    t.read .scl 276479 = 0x00 ∧
    (∀ y < 192, ∀ x < 1439, t.read .scl (sclIndex y x) = s.read .unp (unpIndex (y / 3) ((x + 1) / 3))) ∧
    (∀ y < 191, t.read .scl (sclIndex y 1439) = s.read .unp (unpIndex ((y + 1) / 3) 0)) ∧
    t.sclV = true ∧ t.unpV = true ∧ t.rawV = s.rawV ∧ t.done = true ∧
    t.phase = .idle ∧ t.stage = .none ∧ t.cmdreg = 0x03 ∧ t.err = s.err ∧ t.errinfo = s.errinfo

/-- R54: the spread writes every cell but the last exactly once; so their order cannot matter, and every target of a
source pixel that is not clipped holds the pixel afterwards. -/
def Obligations.SpreadWritesEachCellOnce : Prop :=
  (∀ s : State, ((spreadAll s).2.map Prod.fst).Perm (List.range 276479)) ∧
  (∀ (s : State) (m : Memory) (ws : List Host.Cell), Memory.wf 276480 m → ws.Perm (spreadAll s).2 →
    m.writeAll ws = m.writeAll (spreadAll s).2) ∧
  (∀ s t : State, s.phase = .idle → s.unpV = true → exec .upscale s = .next t →
    ∀ (r c a : Nat), r < 64 → c < 480 → ∀ δ ∈ delta, (a : Int) = (3 * (r : Int) + 1) * 1440 + 3 * (c : Int) + δ →
      t.read .scl a = s.read .unp (unpIndex r c))

/-- R34, frame of UPSCALE. -/
def Obligations.UpscaleFrame : Prop :=
  ∀ s t : State, exec .upscale s = .next t →
    SameOutside s t ∧ SameBuffer .raw s t ∧ SameBuffer .unp s t ∧
    (∀ a, (∀ y < 192, ∀ x < 1440, a ≠ sclIndex y x) → t.read .scl a = s.read .scl a) ∧
    t.input = s.input ∧ t.output = s.output ∧ t.rawV = s.rawV ∧ t.unpV = s.unpV ∧
    t.row = s.row ∧ t.col = s.col ∧ t.incnt = s.incnt ∧ t.outcnt = s.outcnt ∧
    (t.phase ≠ .fault → t.err = s.err ∧ t.errinfo = s.errinfo)

/-! ## The encoders (R43, R55 to R65) -/

/-- R55 and R56: the header's fields, byte by byte, for every value of the open parameters. -/
def Obligations.BmpHeaderFields : Prop :=
  ∀ (p : Params) (scale : Bool),
    let h := bmpHeader p scale
    let at4 := fun o => (h.drop o).take 4
    let at2 := fun o => (h.drop o).take 2
    h.length = 146 ∧ at2 0 = [0x42, 0x4D] ∧
    at4 2 = (if scale then [0x92, 0x38, 0x04, 0x00] else [0x92, 0x10, 0x00, 0x00]) ∧
    at2 6 = [0x00, 0x00] ∧ at2 8 = [0x00, 0x00] ∧ at4 10 = [0x92, 0x00, 0x00, 0x00] ∧
    at4 14 = [0x7C, 0x00, 0x00, 0x00] ∧
    at4 18 = (if scale then [0xA0, 0x05, 0x00, 0x00] else [0xE0, 0x01, 0x00, 0x00]) ∧
    at4 22 = (if scale then [0xC0, 0x00, 0x00, 0x00] else [0x40, 0x00, 0x00, 0x00]) ∧
    at2 26 = [0x01, 0x00] ∧ at2 28 = (if scale then [0x08, 0x00] else [0x01, 0x00]) ∧
    at4 30 = [0x00, 0x00, 0x00, 0x00] ∧
    at4 34 = (if scale then [0x00, 0x38, 0x04, 0x00] else [0x00, 0x10, 0x00, 0x00]) ∧
    at4 38 = u32le (if scale then p.ppm216 else p.ppm72) ∧ at4 42 = u32le (if scale then p.ppm216 else p.ppm72) ∧
    (h.drop 46).take 92 = p.dibTail.toList ∧
    at4 138 = [0xFF, 0xFF, 0xFF, p.palA] ∧ at4 142 = [0x00, 0x00, 0x00, p.palA]

/-- R57: the colour table, the same in both modes: white, then black, in B-G-R-A order. -/
def Obligations.ColourTableIsWhiteThenBlack : Prop :=
  ∀ (p : Params) (scale : Bool),
    ((bmpHeader p scale).drop 138) = [0xFF, 0xFF, 0xFF, p.palA, 0x00, 0x00, 0x00, p.palA]

/-- R58: EMITBMP.R appends the header and the packed bytes of `RAW`, rows reversed, the last byte marked. -/
def Obligations.EmitBmpRawFile : Prop :=
  ∀ s : State, s.phase = .idle → s.rawV = true → s.sinkOk = true →
    ∃ (t : State) (file : List (Byte × Bool)), exec .emitBmpR s = .next t ∧ t.output = s.output ++ file ∧
      file.length = 3986 ∧
      (∀ o < 146, file[o]? = ((bmpHeader s.params false)[o]?).map fun v => (v, false)) ∧
      (∀ r < 64, ∀ b < 60, file[146 + r * 60 + b]?
        = some (s.read .raw (rawIndex (63 - r) b), decide (r = 63 ∧ b = 59))) ∧
      t.input = s.input ∧ t.rawV = s.rawV ∧ t.unpV = s.unpV ∧ t.sclV = s.sclV ∧ t.done = true ∧
      t.phase = .idle ∧ t.stage = .none ∧ t.cmdreg = 0x04 ∧ t.outcnt = 3986 ∧ t.err = s.err ∧ t.errinfo = s.errinfo

/-- R59: EMITBMP.S appends the header and `SCL` in flat order, the last byte marked. -/
def Obligations.EmitBmpScaledFile : Prop :=
  ∀ s : State, s.phase = .idle → s.sclV = true → s.sinkOk = true →
    ∃ (t : State) (file : List (Byte × Bool)), exec .emitBmpS s = .next t ∧ t.output = s.output ++ file ∧
      file.length = 276626 ∧
      (∀ o < 146, file[o]? = ((bmpHeader s.params true)[o]?).map fun v => (v, false)) ∧
      (∀ d < 276480, file[146 + d]? = some (s.read .scl d, decide (d = 276479))) ∧
      t.input = s.input ∧ t.rawV = s.rawV ∧ t.unpV = s.unpV ∧ t.sclV = s.sclV ∧ t.done = true ∧
      t.phase = .idle ∧ t.stage = .none ∧ t.cmdreg = 0x0C ∧ t.outcnt = 276626 ∧ t.err = s.err ∧ t.errinfo = s.errinfo

/-- R64: EMITPCX appends the header parameter and, for every packed byte in source order, the run marker and the byte. -/
def Obligations.EmitPcxFile : Prop :=
  ∀ s : State, s.phase = .idle → s.rawV = true → s.sinkOk = true →
    ∃ (t : State) (file : List (Byte × Bool)), exec .emitPcx s = .next t ∧ t.output = s.output ++ file ∧
      file.length = 7808 ∧
      (∀ o : Fin 128, file[o.val]? = some (s.params.pcxHdr[o], false)) ∧
      (∀ r < 64, ∀ b < 60, file[128 + 2 * (r * 60 + b)]? = some (0xC1, false) ∧
        file[129 + 2 * (r * 60 + b)]? = some (s.read .raw (rawIndex r b), decide (r = 63 ∧ b = 59))) ∧
      t.input = s.input ∧ t.rawV = s.rawV ∧ t.unpV = s.unpV ∧ t.sclV = s.sclV ∧ t.done = true ∧
      t.phase = .idle ∧ t.stage = .none ∧ t.cmdreg = 0x05 ∧ t.outcnt = 7808 ∧ t.err = s.err ∧ t.errinfo = s.errinfo

/-- R60: the lengths of the two BMP files, and the raw header's two size fields that count 256 bytes not in the file. Where
the fields stand and their byte order are R55's, from general knowledge (log 12). -/
def Obligations.BmpLengthsAndNominalSizes : Prop :=
  ∀ s : State, s.phase = .idle → s.sinkOk = true →
    (s.rawV = true → ∃ t, exec .emitBmpR s = .next t ∧ t.output.length = s.output.length + 3986 ∧
      ((t.output.drop (s.output.length + 2)).take 4).map Prod.fst = u32le 4242 ∧
      ((t.output.drop (s.output.length + 34)).take 4).map Prod.fst = u32le 4096) ∧
    (s.sclV = true → ∃ t, exec .emitBmpS s = .next t ∧ t.output.length = s.output.length + 276626 ∧
      ((t.output.drop (s.output.length + 2)).take 4).map Prod.fst = u32le 276626 ∧
      ((t.output.drop (s.output.length + 34)).take 4).map Prod.fst = u32le 276480)

/-- R65: EMITPCX appends exactly 7808 bytes for any frame. -/
def Obligations.PcxLength : Prop :=
  ∀ s : State, s.phase = .idle → s.rawV = true → s.sinkOk = true →
    ∃ t, exec .emitPcx s = .next t ∧ t.output.length = s.output.length + 7808

/-- R62, R63: the default header meets every constraint the spec puts on the parameter. -/
def Obligations.DefaultPcxHeaderMeetsConstraints : Prop := defaultParams.wellFormed = true

/-- R61, R88: the header bytes depend on the scale flag and the parameters alone: an EMITBMP.R right after an EMITBMP.S
emits the raw-mode header, and the reverse. -/
def Obligations.HeaderKeepsNoTrace : Prop :=
  ∀ s : State, s.phase = .idle → s.rawV = true → s.sclV = true → s.sinkOk = true →
    ∃ t u t' u', exec .emitBmpS s = .next t ∧ exec .emitBmpR t = .next u ∧
      exec .emitBmpR s = .next t' ∧ exec .emitBmpS t' = .next u' ∧
      ((u.output.drop t.output.length).take 146).map Prod.fst = bmpHeader s.params false ∧
      ((u'.output.drop t'.output.length).take 146).map Prod.fst = bmpHeader s.params true ∧
      u.output.drop t.output.length = t'.output.drop s.output.length ∧
      u'.output.drop t'.output.length = t.output.drop s.output.length

/-- R34, frame of the three emissions: no buffer, no valid flag, no input byte, no working register of another command;
the output only grows; EMITBMP.S leaves `ROW` and `COL` alone. -/
def Obligations.EmissionFrame : Prop :=
  ∀ (i : Instr) (s t : State), i ∈ [Instr.emitBmpR, .emitBmpS, .emitPcx] → exec i s = .next t →
    SameOutside s t ∧ SameBuffer .raw s t ∧ SameBuffer .unp s t ∧ SameBuffer .scl s t ∧
    t.input = s.input ∧ t.rawV = s.rawV ∧ t.unpV = s.unpV ∧ t.sclV = s.sclV ∧
    t.incnt = s.incnt ∧ t.idx = s.idx ∧ t.start = s.start ∧
    (∃ file, t.output = s.output ++ file) ∧ (i = .emitBmpS → t.row = s.row ∧ t.col = s.col) ∧
    (t.phase ≠ .fault → t.err = s.err ∧ t.errinfo = s.errinfo)

/-! ## The pipelines (R66 to R70) -/

/-- R68: CONVBMP.S from input to file, and where it faults: after the frame has been loaded, unpacked and upscaled a
refusing sink leaves the three buffers valid and nothing emitted; a short source faults before that. -/
def Obligations.ConvBmpScaledEndToEnd : Prop :=
  (∀ (s : State) (d rest : List Byte), s.phase = .idle → s.input = d ++ rest → d.length = 4096 →
    ∃ t, exec .convBmpS s = .next t ∧ t.input = rest ∧ t.cmdreg = 0x1C ∧
      t.rawV = true ∧ t.unpV = true ∧ t.sclV = true ∧
      (s.sinkOk = true → t.done = true ∧ t.phase = .idle ∧ t.stage = .none ∧
        t.err = s.err ∧ t.errinfo = s.errinfo ∧
        ∃ file, t.output = s.output ++ file ∧ file.length = 276626 ∧
        (∀ o < 146, file[o]? = ((bmpHeader s.params true)[o]?).map fun v => (v, false)) ∧
        (∀ e, 1 ≤ e → e ≤ 276479 → file[146 + e - 1]?
          = some ((d.getD ((63 - e / 1440 / 3) * 64 + e % 1440 / 3 / 8) 0 >>> (7 - e % 1440 / 3 % 8)) &&& 1, false)) ∧
        file[276625]? = some (0x00, true)) ∧
      (s.sinkOk = false → t.done = false ∧ t.phase = .fault ∧ t.stage = .emitBmp ∧ t.err = 2 ∧ t.errinfo = 0x0000 ∧
        t.output = s.output)) ∧
  (∀ s : State, s.phase = .idle → s.input.length < 4096 → ∃ t, exec .convBmpS s = .next t ∧
    t.phase = .fault ∧ t.err = 1 ∧ t.errinfo.toNat = s.input.length ∧ t.stage = .load ∧
    t.rawV = false ∧ t.unpV = false ∧ t.sclV = false ∧ t.input = [] ∧ t.output = s.output)

/-- R69: CONVBMP.R from input to file, and where it faults. -/
def Obligations.ConvBmpRawEndToEnd : Prop :=
  (∀ (s : State) (d rest : List Byte), s.phase = .idle → s.input = d ++ rest → d.length = 4096 →
    ∃ t, exec .convBmpR s = .next t ∧ t.input = rest ∧ t.cmdreg = 0x14 ∧
      t.rawV = true ∧ t.unpV = false ∧ t.sclV = false ∧ SameBuffer .unp s t ∧ SameBuffer .scl s t ∧
      (s.sinkOk = true → t.done = true ∧ t.phase = .idle ∧ t.stage = .none ∧
        t.err = s.err ∧ t.errinfo = s.errinfo ∧
        ∃ file, t.output = s.output ++ file ∧ file.length = 3986 ∧
        (∀ o < 146, file[o]? = ((bmpHeader s.params false)[o]?).map fun v => (v, false)) ∧
        (∀ r < 64, ∀ b < 60, file[146 + r * 60 + b]?
          = some (d.getD ((63 - r) * 64 + b) 0, decide (r = 63 ∧ b = 59)))) ∧
      (s.sinkOk = false → t.done = false ∧ t.phase = .fault ∧ t.stage = .emitBmp ∧ t.err = 2 ∧ t.errinfo = 0x0000 ∧
        t.output = s.output)) ∧
  (∀ s : State, s.phase = .idle → s.input.length < 4096 → ∃ t, exec .convBmpR s = .next t ∧
    t.phase = .fault ∧ t.err = 1 ∧ t.errinfo.toNat = s.input.length ∧ t.stage = .load ∧
    t.rawV = false ∧ t.unpV = false ∧ t.sclV = false ∧ t.input = [] ∧ t.output = s.output)

/-- R70: CONVPCX from input to file, and where it faults. -/
def Obligations.ConvPcxEndToEnd : Prop :=
  (∀ (s : State) (d rest : List Byte), s.phase = .idle → s.input = d ++ rest → d.length = 4096 →
    ∃ t, exec .convPcx s = .next t ∧ t.input = rest ∧ t.cmdreg = 0x15 ∧
      t.rawV = true ∧ t.unpV = false ∧ t.sclV = false ∧ SameBuffer .unp s t ∧ SameBuffer .scl s t ∧
      (s.sinkOk = true → t.done = true ∧ t.phase = .idle ∧ t.stage = .none ∧
        t.err = s.err ∧ t.errinfo = s.errinfo ∧
        ∃ file, t.output = s.output ++ file ∧ file.length = 7808 ∧
        (∀ o : Fin 128, file[o.val]? = some (s.params.pcxHdr[o], false)) ∧
        (∀ r < 64, ∀ b < 60, file[128 + 2 * (r * 60 + b)]? = some (0xC1, false) ∧
          file[129 + 2 * (r * 60 + b)]? = some (d.getD (r * 64 + b) 0, decide (r = 63 ∧ b = 59)))) ∧
      (s.sinkOk = false → t.done = false ∧ t.phase = .fault ∧ t.stage = .emitPcx ∧ t.err = 2 ∧ t.errinfo = 0x0000 ∧
        t.output = s.output)) ∧
  (∀ s : State, s.phase = .idle → s.input.length < 4096 → ∃ t, exec .convPcx s = .next t ∧
    t.phase = .fault ∧ t.err = 1 ∧ t.errinfo.toNat = s.input.length ∧ t.stage = .load ∧
    t.rawV = false ∧ t.unpV = false ∧ t.sclV = false ∧ t.input = [] ∧ t.output = s.output)

/-- R67, P8: a chain that does not fault and the one-by-one script of its primitives end in the same state, but for
`CMDREG`. -/
def Obligations.ChainEqualsScript : Prop :=
  ∀ s : State, s.phase = .idle → 4096 ≤ s.input.length → s.sinkOk = true →
    (∃ a b c t, exec .load s = .next a ∧ exec .unpack a = .next b ∧ exec .upscale b = .next c ∧
      exec .emitBmpS c = .next t ∧ exec .convBmpS s = .next { t with cmdreg := 0x1C }) ∧
    (∃ a t, exec .load s = .next a ∧ exec .emitBmpR a = .next t ∧ exec .convBmpR s = .next { t with cmdreg := 0x14 }) ∧
    (∃ a t, exec .load s = .next a ∧ exec .emitPcx a = .next t ∧ exec .convPcx s = .next { t with cmdreg := 0x15 })

/-- Frame of the pipelines: nothing of the host's or the build's changes; the two that skip the unpacker and the upscaler
leave `UNP`, `SCL`, `IDX` and `START` alone; no buffer changes outside its cells, but for `RAW` after a short source
(ShortSourceFaults). -/
def Obligations.PipelineFrame : Prop :=
  ∀ (i : Instr) (s t : State), i ∈ [Instr.convBmpR, .convBmpS, .convPcx] → exec i s = .next t →
    SameOutside s t ∧ (∃ file, t.output = s.output ++ file) ∧
    (s.phase ≠ .idle ∨ 4096 ≤ s.input.length → ∀ a, (∀ r < 64, ∀ b < 60, a ≠ rawIndex r b) → t.read .raw a = s.read .raw a) ∧
    (∀ a, (∀ r < 64, ∀ c < 480, a ≠ unpIndex r c) → t.read .unp a = s.read .unp a) ∧
    (∀ a, (∀ y < 192, ∀ x < 1440, a ≠ sclIndex y x) → t.read .scl a = s.read .scl a) ∧
    (i ≠ .convBmpS → SameBuffer .unp s t ∧ SameBuffer .scl s t ∧ t.idx = s.idx ∧ t.start = s.start) ∧
    (t.phase ≠ .fault → t.err = s.err ∧ t.errinfo = s.errinfo)

/-- R87: a stale derived buffer is not emitted. After LOAD; UNPACK; UPSCALE; LOAD the scaled emission faults; without the
second LOAD all three emissions of the one frame are accepted. A LOAD invalidates both derived buffers, an UNPACK the
scaled one. -/
def Obligations.StaleBufferIsRefused : Prop :=
  ∀ s : State, s.phase = .idle → s.sinkOk = true →
    (8192 ≤ s.input.length → ∃ a b c e t, exec .load s = .next a ∧ exec .unpack a = .next b ∧
      exec .upscale b = .next c ∧ exec .load c = .next e ∧ exec .emitBmpS e = .next t ∧
      t.phase = .fault ∧ t.err = 4 ∧ t.errinfo = 0x000C ∧ t.output = s.output) ∧
    (4096 ≤ s.input.length → ∃ a b c e f t, exec .load s = .next a ∧ exec .unpack a = .next b ∧
      exec .upscale b = .next c ∧ exec .emitBmpS c = .next e ∧ exec .emitBmpR e = .next f ∧ exec .emitPcx f = .next t ∧
      t.phase = .idle ∧ t.done = true ∧ t.output.length = s.output.length + 288420) ∧
    (∃ t, exec .load s = .next t ∧ t.unpV = false ∧ t.sclV = false) ∧
    (s.rawV = true → ∃ t, exec .unpack s = .next t ∧ t.unpV = true ∧ t.sclV = false)

/-! ## Scripts (R40, R41) -/

/-- R40, R41: the encoding of a script is the list of its command bytes in order; comments and the pseudo-commands. -/
def Obligations.ScriptsAssemble : Prop :=
  (∀ i : Instr, assemble (mnemonic i) = some [encode i]) ∧
  assemble "LOAD\nUNPACK".toList = some [0x01, 0x02] ∧
  assemble "CONVBMP.S        ; alias CONVERT\n".toList = some [0x1C] ∧
  assemble "CONVERT".toList = some [0x1C] ∧ assemble "CONVERT.RAWSIZE".toList = some [0x14] ∧
  assemble "EMITBMP scale=1".toList = some [0x0C] ∧ assemble "EMITBMP scale=0".toList = some [0x04] ∧
  assemble "SCALEBMP".toList = some [0x01, 0x02, 0x03, 0x0C] ∧ assemble "load".toList = none

/-! ## The whole machine -/

/-- The state after reset is safe and truthful. -/
def Obligations.ResetIsSafeAndTruthful : Prop := Safe State.reset ∧ Truthful State.reset

/-- Every step keeps the block safe (Safe: the buffers canonical, R13's flag order, R12's registers in place, R71's
codes), commands, beats, resets and everything else the host does alike. -/
def Obligations.EveryStepKeepsTheBlockSafe : Prop :=
  ∀ s t : State, Safe s → step s = .next t → Safe t

/-- A safe block never stops: after the first reset every step answers a next state. No rule of the spec ends a run; a
fault of R71 is a state. -/
def Obligations.SafeBlockNeverStops : Prop :=
  ∀ s : State, Safe s → s.resetSeen = true → ∃ t, step s = .next t

/-- R13: a set valid flag tells the truth about its buffer, after every step from a state where it does, in the middle of
a command too. -/
def Obligations.ValidFlagsStayTruthful : Prop :=
  ∀ s t : State, Safe s → Truthful s → step s = .next t → Truthful t

/-- R16, R17: where the valid flags tell the truth, every byte of a valid `UNP` and `SCL` is 0x00 or 0x01. -/
def Obligations.ValidPixelsAreBits : Prop :=
  ∀ s : State, Truthful s → (s.sclV = true → s.unpV = true) →
    (s.unpV = true → ∀ a < 30720, s.read .unp a = 0x00 ∨ s.read .unp a = 0x01) ∧
    (s.sclV = true → ∀ d < 276480, s.read .scl d = 0x00 ∨ s.read .scl d = 0x01)

/-- R6: the beats of a command, one loop iteration at a time, carry out the command: begun in an idle block and left
alone, they end after finitely many beats in the state `exec` gives, every register, buffer cell and output byte. -/
def Obligations.BeatsCarryOutTheCommand : Prop :=
  ∀ (i : Instr) (s : State), s.phase = .idle → ∃ n t, runBeats n (begin (encode i) s) = .next t ∧
    t.phase ≠ .run ∧ exec i s = .next t

/-- R19, R29 (c), (d): no step takes back or changes an emitted byte, and input bytes are consumed in order from the
front. -/
def Obligations.StreamsOnlyMoveForward : Prop :=
  ∀ s t : State, step s = .next t →
    (∃ out, t.output = s.output ++ out) ∧ (∃ used, s.input = used ++ t.input)

/-- R43, R83: one beat of an emission appends exactly the byte the output port offers, and that byte carries the
end-of-file mark exactly when the beat ends the command; so an emission cut short by reset leaves no mark. That a beat is
one byte, and that the command completes in the beat of its last byte, is log 6. -/
def Obligations.MarkOnlyAtTheEndOfTheFile : Prop :=
  ∀ s t : State, Safe s → s.phase = .run → (s.stage = .emitBmp ∨ s.stage = .emitPcx) → beat s = .next t →
    ∃ v last, s.nextOut = some (v, last) ∧ t.output = s.output ++ [(v, last)] ∧
      (last = true ↔ t.phase = .idle ∧ t.done = true)

/-- R84 (d): the open parameters are fixed: no step changes them. -/
def Obligations.ParametersNeverChange : Prop :=
  ∀ s t : State, step s = .next t → t.params = s.params

end
end

