-- ==== Sys2Proof/Laws/State.lean ====
section
/-!
SUPPORT. For each update of the state, what every field is after it: true by unfolding the one update, so that no later
proof unfolds a record update.
-/

namespace Sys2Proof.Machine

/-! ## `State.raise`: Fault entry (R76). -/

section

variable (s : State) (e : Cause) (info : BitVec 16)

@[simp] theorem State.raise_phase : (s.raise e info).phase = .fault := rfl
@[simp] theorem State.raise_cmdreg : (s.raise e info).cmdreg = s.cmdreg := rfl
@[simp] theorem State.raise_stage : (s.raise e info).stage = s.stage := rfl
@[simp] theorem State.raise_row : (s.raise e info).row = s.row := rfl
@[simp] theorem State.raise_col : (s.raise e info).col = s.col := rfl
@[simp] theorem State.raise_incnt : (s.raise e info).incnt = s.incnt := rfl
@[simp] theorem State.raise_idx : (s.raise e info).idx = s.idx := rfl
@[simp] theorem State.raise_start : (s.raise e info).start = s.start := rfl
@[simp] theorem State.raise_outcnt : (s.raise e info).outcnt = s.outcnt := rfl
@[simp] theorem State.raise_rawV : (s.raise e info).rawV = s.rawV := rfl
@[simp] theorem State.raise_unpV : (s.raise e info).unpV = s.unpV := rfl
@[simp] theorem State.raise_sclV : (s.raise e info).sclV = s.sclV := rfl
@[simp] theorem State.raise_done : (s.raise e info).done = s.done := rfl
@[simp] theorem State.raise_err : (s.raise e info).err = e.code := rfl
@[simp] theorem State.raise_errinfo : (s.raise e info).errinfo = info := rfl
@[simp] theorem State.raise_raw : (s.raise e info).raw = s.raw := rfl
@[simp] theorem State.raise_unp : (s.raise e info).unp = s.unp := rfl
@[simp] theorem State.raise_scl : (s.raise e info).scl = s.scl := rfl
@[simp] theorem State.raise_input : (s.raise e info).input = s.input := rfl
@[simp] theorem State.raise_output : (s.raise e info).output = s.output := rfl
@[simp] theorem State.raise_sinkOk : (s.raise e info).sinkOk = s.sinkOk := rfl
@[simp] theorem State.raise_host : (s.raise e info).host = s.host := rfl
@[simp] theorem State.raise_params : (s.raise e info).params = s.params := rfl
@[simp] theorem State.raise_epoch : (s.raise e info).epoch = s.epoch := rfl
@[simp] theorem State.raise_rawEpoch : (s.raise e info).rawEpoch = s.rawEpoch := rfl
@[simp] theorem State.raise_resetSeen : (s.raise e info).resetSeen = s.resetSeen := rfl

end

/-! ## `State.accept`: Acceptance (R12, R13). -/

section

variable (s : State) (w : Byte)

@[simp] theorem State.accept_phase : (s.accept w).phase = .run := rfl
@[simp] theorem State.accept_cmdreg : (s.accept w).cmdreg = w := rfl
@[simp] theorem State.accept_stage : (s.accept w).stage = s.stage := rfl
@[simp] theorem State.accept_row : (s.accept w).row = s.row := rfl
@[simp] theorem State.accept_col : (s.accept w).col = s.col := rfl
@[simp] theorem State.accept_incnt : (s.accept w).incnt = s.incnt := rfl
@[simp] theorem State.accept_idx : (s.accept w).idx = s.idx := rfl
@[simp] theorem State.accept_start : (s.accept w).start = s.start := rfl
@[simp] theorem State.accept_outcnt : (s.accept w).outcnt = s.outcnt := rfl
@[simp] theorem State.accept_rawV : (s.accept w).rawV = s.rawV := rfl
@[simp] theorem State.accept_unpV : (s.accept w).unpV = s.unpV := rfl
@[simp] theorem State.accept_sclV : (s.accept w).sclV = s.sclV := rfl
@[simp] theorem State.accept_done : (s.accept w).done = false := rfl
@[simp] theorem State.accept_err : (s.accept w).err = s.err := rfl
@[simp] theorem State.accept_errinfo : (s.accept w).errinfo = s.errinfo := rfl
@[simp] theorem State.accept_raw : (s.accept w).raw = s.raw := rfl
@[simp] theorem State.accept_unp : (s.accept w).unp = s.unp := rfl
@[simp] theorem State.accept_scl : (s.accept w).scl = s.scl := rfl
@[simp] theorem State.accept_input : (s.accept w).input = s.input := rfl
@[simp] theorem State.accept_output : (s.accept w).output = s.output := rfl
@[simp] theorem State.accept_sinkOk : (s.accept w).sinkOk = s.sinkOk := rfl
@[simp] theorem State.accept_host : (s.accept w).host = s.host := rfl
@[simp] theorem State.accept_params : (s.accept w).params = s.params := rfl
@[simp] theorem State.accept_epoch : (s.accept w).epoch = s.epoch := rfl
@[simp] theorem State.accept_rawEpoch : (s.accept w).rawEpoch = s.rawEpoch := rfl
@[simp] theorem State.accept_resetSeen : (s.accept w).resetSeen = s.resetSeen := rfl

end

/-! ## `State.complete`: Completion (R12, R13). -/

section

variable (s : State)

@[simp] theorem State.complete_phase : (s.complete).phase = .idle := rfl
@[simp] theorem State.complete_cmdreg : (s.complete).cmdreg = s.cmdreg := rfl
@[simp] theorem State.complete_stage : (s.complete).stage = .none := rfl
@[simp] theorem State.complete_row : (s.complete).row = s.row := rfl
@[simp] theorem State.complete_col : (s.complete).col = s.col := rfl
@[simp] theorem State.complete_incnt : (s.complete).incnt = s.incnt := rfl
@[simp] theorem State.complete_idx : (s.complete).idx = s.idx := rfl
@[simp] theorem State.complete_start : (s.complete).start = s.start := rfl
@[simp] theorem State.complete_outcnt : (s.complete).outcnt = s.outcnt := rfl
@[simp] theorem State.complete_rawV : (s.complete).rawV = s.rawV := rfl
@[simp] theorem State.complete_unpV : (s.complete).unpV = s.unpV := rfl
@[simp] theorem State.complete_sclV : (s.complete).sclV = s.sclV := rfl
@[simp] theorem State.complete_done : (s.complete).done = true := rfl
@[simp] theorem State.complete_err : (s.complete).err = s.err := rfl
@[simp] theorem State.complete_errinfo : (s.complete).errinfo = s.errinfo := rfl
@[simp] theorem State.complete_raw : (s.complete).raw = s.raw := rfl
@[simp] theorem State.complete_unp : (s.complete).unp = s.unp := rfl
@[simp] theorem State.complete_scl : (s.complete).scl = s.scl := rfl
@[simp] theorem State.complete_input : (s.complete).input = s.input := rfl
@[simp] theorem State.complete_output : (s.complete).output = s.output := rfl
@[simp] theorem State.complete_sinkOk : (s.complete).sinkOk = s.sinkOk := rfl
@[simp] theorem State.complete_host : (s.complete).host = s.host := rfl
@[simp] theorem State.complete_params : (s.complete).params = s.params := rfl
@[simp] theorem State.complete_epoch : (s.complete).epoch = s.epoch := rfl
@[simp] theorem State.complete_rawEpoch : (s.complete).rawEpoch = s.rawEpoch := rfl
@[simp] theorem State.complete_resetSeen : (s.complete).resetSeen = s.resetSeen := rfl

end

/-! ## `State.enterStage`: A primitive's first action (C12). -/

section

variable (s : State) (st : Stage)

@[simp] theorem State.enterStage_phase : (s.enterStage st).phase = s.phase := rfl
@[simp] theorem State.enterStage_cmdreg : (s.enterStage st).cmdreg = s.cmdreg := rfl
@[simp] theorem State.enterStage_stage : (s.enterStage st).stage = st := rfl
@[simp] theorem State.enterStage_row : (s.enterStage st).row = s.row := rfl
@[simp] theorem State.enterStage_col : (s.enterStage st).col = s.col := rfl
@[simp] theorem State.enterStage_incnt : (s.enterStage st).incnt = s.incnt := rfl
@[simp] theorem State.enterStage_idx : (s.enterStage st).idx = s.idx := rfl
@[simp] theorem State.enterStage_start : (s.enterStage st).start = s.start := rfl
@[simp] theorem State.enterStage_outcnt : (s.enterStage st).outcnt = s.outcnt := rfl
@[simp] theorem State.enterStage_rawV : (s.enterStage st).rawV = s.rawV := rfl
@[simp] theorem State.enterStage_unpV : (s.enterStage st).unpV = s.unpV := rfl
@[simp] theorem State.enterStage_sclV : (s.enterStage st).sclV = s.sclV := rfl
@[simp] theorem State.enterStage_done : (s.enterStage st).done = s.done := rfl
@[simp] theorem State.enterStage_err : (s.enterStage st).err = s.err := rfl
@[simp] theorem State.enterStage_errinfo : (s.enterStage st).errinfo = s.errinfo := rfl
@[simp] theorem State.enterStage_raw : (s.enterStage st).raw = s.raw := rfl
@[simp] theorem State.enterStage_unp : (s.enterStage st).unp = s.unp := rfl
@[simp] theorem State.enterStage_scl : (s.enterStage st).scl = s.scl := rfl
@[simp] theorem State.enterStage_input : (s.enterStage st).input = s.input := rfl
@[simp] theorem State.enterStage_output : (s.enterStage st).output = s.output := rfl
@[simp] theorem State.enterStage_sinkOk : (s.enterStage st).sinkOk = s.sinkOk := rfl
@[simp] theorem State.enterStage_host : (s.enterStage st).host = s.host := rfl
@[simp] theorem State.enterStage_params : (s.enterStage st).params = s.params := rfl
@[simp] theorem State.enterStage_epoch : (s.enterStage st).epoch = s.epoch := rfl
@[simp] theorem State.enterStage_rawEpoch : (s.enterStage st).rawEpoch = s.rawEpoch := rfl
@[simp] theorem State.enterStage_resetSeen : (s.enterStage st).resetSeen = s.resetSeen := rfl

end

/-! ## `State.emitFile`: Emitting a file (R43). -/

section

variable (s : State) (bs : List Byte)

@[simp] theorem State.emitFile_phase : (s.emitFile bs).phase = s.phase := rfl
@[simp] theorem State.emitFile_cmdreg : (s.emitFile bs).cmdreg = s.cmdreg := rfl
@[simp] theorem State.emitFile_stage : (s.emitFile bs).stage = s.stage := rfl
@[simp] theorem State.emitFile_row : (s.emitFile bs).row = s.row := rfl
@[simp] theorem State.emitFile_col : (s.emitFile bs).col = s.col := rfl
@[simp] theorem State.emitFile_incnt : (s.emitFile bs).incnt = s.incnt := rfl
@[simp] theorem State.emitFile_idx : (s.emitFile bs).idx = s.idx := rfl
@[simp] theorem State.emitFile_start : (s.emitFile bs).start = s.start := rfl
@[simp] theorem State.emitFile_outcnt : (s.emitFile bs).outcnt = BitVec.ofNat 19 bs.length := rfl
@[simp] theorem State.emitFile_rawV : (s.emitFile bs).rawV = s.rawV := rfl
@[simp] theorem State.emitFile_unpV : (s.emitFile bs).unpV = s.unpV := rfl
@[simp] theorem State.emitFile_sclV : (s.emitFile bs).sclV = s.sclV := rfl
@[simp] theorem State.emitFile_done : (s.emitFile bs).done = s.done := rfl
@[simp] theorem State.emitFile_err : (s.emitFile bs).err = s.err := rfl
@[simp] theorem State.emitFile_errinfo : (s.emitFile bs).errinfo = s.errinfo := rfl
@[simp] theorem State.emitFile_raw : (s.emitFile bs).raw = s.raw := rfl
@[simp] theorem State.emitFile_unp : (s.emitFile bs).unp = s.unp := rfl
@[simp] theorem State.emitFile_scl : (s.emitFile bs).scl = s.scl := rfl
@[simp] theorem State.emitFile_input : (s.emitFile bs).input = s.input := rfl
@[simp] theorem State.emitFile_output : (s.emitFile bs).output = s.output ++ markLast bs := rfl
@[simp] theorem State.emitFile_sinkOk : (s.emitFile bs).sinkOk = s.sinkOk := rfl
@[simp] theorem State.emitFile_host : (s.emitFile bs).host = s.host := rfl
@[simp] theorem State.emitFile_params : (s.emitFile bs).params = s.params := rfl
@[simp] theorem State.emitFile_epoch : (s.emitFile bs).epoch = s.epoch := rfl
@[simp] theorem State.emitFile_rawEpoch : (s.emitFile bs).rawEpoch = s.rawEpoch := rfl
@[simp] theorem State.emitFile_resetSeen : (s.emitFile bs).resetSeen = s.resetSeen := rfl

end

/-! ## `State.hardReset`: Reset (R22, R83). -/

section

variable (s : State)

@[simp] theorem State.hardReset_phase : (s.hardReset).phase = .idle := rfl
@[simp] theorem State.hardReset_cmdreg : (s.hardReset).cmdreg = 0 := rfl
@[simp] theorem State.hardReset_stage : (s.hardReset).stage = .none := rfl
@[simp] theorem State.hardReset_row : (s.hardReset).row = 0 := rfl
@[simp] theorem State.hardReset_col : (s.hardReset).col = 0 := rfl
@[simp] theorem State.hardReset_incnt : (s.hardReset).incnt = 0 := rfl
@[simp] theorem State.hardReset_idx : (s.hardReset).idx = 0 := rfl
@[simp] theorem State.hardReset_start : (s.hardReset).start = 0 := rfl
@[simp] theorem State.hardReset_outcnt : (s.hardReset).outcnt = 0 := rfl
@[simp] theorem State.hardReset_rawV : (s.hardReset).rawV = false := rfl
@[simp] theorem State.hardReset_unpV : (s.hardReset).unpV = false := rfl
@[simp] theorem State.hardReset_sclV : (s.hardReset).sclV = false := rfl
@[simp] theorem State.hardReset_done : (s.hardReset).done = false := rfl
@[simp] theorem State.hardReset_err : (s.hardReset).err = 0 := rfl
@[simp] theorem State.hardReset_errinfo : (s.hardReset).errinfo = 0 := rfl
@[simp] theorem State.hardReset_raw : (s.hardReset).raw = [] := rfl
@[simp] theorem State.hardReset_unp : (s.hardReset).unp = [] := rfl
@[simp] theorem State.hardReset_scl : (s.hardReset).scl = [] := rfl
@[simp] theorem State.hardReset_input : (s.hardReset).input = s.input := rfl
@[simp] theorem State.hardReset_output : (s.hardReset).output = s.output := rfl
@[simp] theorem State.hardReset_sinkOk : (s.hardReset).sinkOk = s.sinkOk := rfl
@[simp] theorem State.hardReset_host : (s.hardReset).host = s.host := rfl
@[simp] theorem State.hardReset_params : (s.hardReset).params = s.params := rfl
@[simp] theorem State.hardReset_epoch : (s.hardReset).epoch = s.epoch + 1 := rfl
@[simp] theorem State.hardReset_rawEpoch : (s.hardReset).rawEpoch = s.rawEpoch + 1 := rfl
@[simp] theorem State.hardReset_resetSeen : (s.hardReset).resetSeen = true := rfl

end

/-! ## `State.forgetRaw`: `RAW` becomes unspecified (R44, U2). -/

section

variable (s : State)

@[simp] theorem State.forgetRaw_phase : (s.forgetRaw).phase = s.phase := rfl
@[simp] theorem State.forgetRaw_cmdreg : (s.forgetRaw).cmdreg = s.cmdreg := rfl
@[simp] theorem State.forgetRaw_stage : (s.forgetRaw).stage = s.stage := rfl
@[simp] theorem State.forgetRaw_row : (s.forgetRaw).row = s.row := rfl
@[simp] theorem State.forgetRaw_col : (s.forgetRaw).col = s.col := rfl
@[simp] theorem State.forgetRaw_incnt : (s.forgetRaw).incnt = s.incnt := rfl
@[simp] theorem State.forgetRaw_idx : (s.forgetRaw).idx = s.idx := rfl
@[simp] theorem State.forgetRaw_start : (s.forgetRaw).start = s.start := rfl
@[simp] theorem State.forgetRaw_outcnt : (s.forgetRaw).outcnt = s.outcnt := rfl
@[simp] theorem State.forgetRaw_rawV : (s.forgetRaw).rawV = s.rawV := rfl
@[simp] theorem State.forgetRaw_unpV : (s.forgetRaw).unpV = s.unpV := rfl
@[simp] theorem State.forgetRaw_sclV : (s.forgetRaw).sclV = s.sclV := rfl
@[simp] theorem State.forgetRaw_done : (s.forgetRaw).done = s.done := rfl
@[simp] theorem State.forgetRaw_err : (s.forgetRaw).err = s.err := rfl
@[simp] theorem State.forgetRaw_errinfo : (s.forgetRaw).errinfo = s.errinfo := rfl
@[simp] theorem State.forgetRaw_raw : (s.forgetRaw).raw = [] := rfl
@[simp] theorem State.forgetRaw_unp : (s.forgetRaw).unp = s.unp := rfl
@[simp] theorem State.forgetRaw_scl : (s.forgetRaw).scl = s.scl := rfl
@[simp] theorem State.forgetRaw_input : (s.forgetRaw).input = s.input := rfl
@[simp] theorem State.forgetRaw_output : (s.forgetRaw).output = s.output := rfl
@[simp] theorem State.forgetRaw_sinkOk : (s.forgetRaw).sinkOk = s.sinkOk := rfl
@[simp] theorem State.forgetRaw_host : (s.forgetRaw).host = s.host := rfl
@[simp] theorem State.forgetRaw_params : (s.forgetRaw).params = s.params := rfl
@[simp] theorem State.forgetRaw_epoch : (s.forgetRaw).epoch = s.epoch := rfl
@[simp] theorem State.forgetRaw_rawEpoch : (s.forgetRaw).rawEpoch = s.rawEpoch + 1 := rfl
@[simp] theorem State.forgetRaw_resetSeen : (s.forgetRaw).resetSeen = s.resetSeen := rfl

end

/-! ## `loadEnter`: LOAD's prologue (R44). -/

section

variable (s : State)

@[simp] theorem loadEnter_phase : (loadEnter s).phase = s.phase := rfl
@[simp] theorem loadEnter_cmdreg : (loadEnter s).cmdreg = s.cmdreg := rfl
@[simp] theorem loadEnter_stage : (loadEnter s).stage = .load := rfl
@[simp] theorem loadEnter_row : (loadEnter s).row = 0 := rfl
@[simp] theorem loadEnter_col : (loadEnter s).col = 0 := rfl
@[simp] theorem loadEnter_incnt : (loadEnter s).incnt = 0 := rfl
@[simp] theorem loadEnter_idx : (loadEnter s).idx = s.idx := rfl
@[simp] theorem loadEnter_start : (loadEnter s).start = s.start := rfl
@[simp] theorem loadEnter_outcnt : (loadEnter s).outcnt = s.outcnt := rfl
@[simp] theorem loadEnter_rawV : (loadEnter s).rawV = false := rfl
@[simp] theorem loadEnter_unpV : (loadEnter s).unpV = false := rfl
@[simp] theorem loadEnter_sclV : (loadEnter s).sclV = false := rfl
@[simp] theorem loadEnter_done : (loadEnter s).done = s.done := rfl
@[simp] theorem loadEnter_err : (loadEnter s).err = s.err := rfl
@[simp] theorem loadEnter_errinfo : (loadEnter s).errinfo = s.errinfo := rfl
@[simp] theorem loadEnter_raw : (loadEnter s).raw = s.raw := rfl
@[simp] theorem loadEnter_unp : (loadEnter s).unp = s.unp := rfl
@[simp] theorem loadEnter_scl : (loadEnter s).scl = s.scl := rfl
@[simp] theorem loadEnter_input : (loadEnter s).input = s.input := rfl
@[simp] theorem loadEnter_output : (loadEnter s).output = s.output := rfl
@[simp] theorem loadEnter_sinkOk : (loadEnter s).sinkOk = s.sinkOk := rfl
@[simp] theorem loadEnter_host : (loadEnter s).host = s.host := rfl
@[simp] theorem loadEnter_params : (loadEnter s).params = s.params := rfl
@[simp] theorem loadEnter_epoch : (loadEnter s).epoch = s.epoch := rfl
@[simp] theorem loadEnter_rawEpoch : (loadEnter s).rawEpoch = s.rawEpoch := rfl
@[simp] theorem loadEnter_resetSeen : (loadEnter s).resetSeen = s.resetSeen := rfl

end

/-! ## `loadFull`: LOAD's loop, source long enough (R44). -/

section

variable (s : State)

@[simp] theorem loadFull_phase : (loadFull s).phase = s.phase := rfl
@[simp] theorem loadFull_cmdreg : (loadFull s).cmdreg = s.cmdreg := rfl
@[simp] theorem loadFull_stage : (loadFull s).stage = s.stage := rfl
@[simp] theorem loadFull_row : (loadFull s).row = 63 := rfl
@[simp] theorem loadFull_col : (loadFull s).col = 63 := rfl
@[simp] theorem loadFull_incnt : (loadFull s).incnt = 4096 := rfl
@[simp] theorem loadFull_idx : (loadFull s).idx = s.idx := rfl
@[simp] theorem loadFull_start : (loadFull s).start = s.start := rfl
@[simp] theorem loadFull_outcnt : (loadFull s).outcnt = s.outcnt := rfl
@[simp] theorem loadFull_rawV : (loadFull s).rawV = true := rfl
@[simp] theorem loadFull_unpV : (loadFull s).unpV = s.unpV := rfl
@[simp] theorem loadFull_sclV : (loadFull s).sclV = s.sclV := rfl
@[simp] theorem loadFull_done : (loadFull s).done = s.done := rfl
@[simp] theorem loadFull_err : (loadFull s).err = s.err := rfl
@[simp] theorem loadFull_errinfo : (loadFull s).errinfo = s.errinfo := rfl
@[simp] theorem loadFull_raw : (loadFull s).raw = s.raw.writeAll (frameWrites (s.input.take 4096)) := rfl
@[simp] theorem loadFull_unp : (loadFull s).unp = s.unp := rfl
@[simp] theorem loadFull_scl : (loadFull s).scl = s.scl := rfl
@[simp] theorem loadFull_input : (loadFull s).input = s.input.drop 4096 := rfl
@[simp] theorem loadFull_output : (loadFull s).output = s.output := rfl
@[simp] theorem loadFull_sinkOk : (loadFull s).sinkOk = s.sinkOk := rfl
@[simp] theorem loadFull_host : (loadFull s).host = s.host := rfl
@[simp] theorem loadFull_params : (loadFull s).params = s.params := rfl
@[simp] theorem loadFull_epoch : (loadFull s).epoch = s.epoch := rfl
@[simp] theorem loadFull_rawEpoch : (loadFull s).rawEpoch = s.rawEpoch := rfl
@[simp] theorem loadFull_resetSeen : (loadFull s).resetSeen = s.resetSeen := rfl

end

/-! ## `loadShort`: LOAD's loop, source too short (R44, R72). -/

section

variable (s : State)

@[simp] theorem loadShort_phase : (loadShort s).phase = .fault := rfl
@[simp] theorem loadShort_cmdreg : (loadShort s).cmdreg = s.cmdreg := rfl
@[simp] theorem loadShort_stage : (loadShort s).stage = s.stage := rfl
@[simp] theorem loadShort_row : (loadShort s).row = BitVec.ofNat 6 (s.input.length / 64) := rfl
@[simp] theorem loadShort_col : (loadShort s).col = BitVec.ofNat 6 (s.input.length % 64) := rfl
@[simp] theorem loadShort_incnt : (loadShort s).incnt = BitVec.ofNat 13 s.input.length := rfl
@[simp] theorem loadShort_idx : (loadShort s).idx = s.idx := rfl
@[simp] theorem loadShort_start : (loadShort s).start = s.start := rfl
@[simp] theorem loadShort_outcnt : (loadShort s).outcnt = s.outcnt := rfl
@[simp] theorem loadShort_rawV : (loadShort s).rawV = s.rawV := rfl
@[simp] theorem loadShort_unpV : (loadShort s).unpV = s.unpV := rfl
@[simp] theorem loadShort_sclV : (loadShort s).sclV = s.sclV := rfl
@[simp] theorem loadShort_done : (loadShort s).done = s.done := rfl
@[simp] theorem loadShort_err : (loadShort s).err = 1 := rfl
@[simp] theorem loadShort_errinfo : (loadShort s).errinfo = BitVec.ofNat 16 s.input.length := rfl
@[simp] theorem loadShort_raw : (loadShort s).raw = [] := rfl
@[simp] theorem loadShort_unp : (loadShort s).unp = s.unp := rfl
@[simp] theorem loadShort_scl : (loadShort s).scl = s.scl := rfl
@[simp] theorem loadShort_input : (loadShort s).input = [] := rfl
@[simp] theorem loadShort_output : (loadShort s).output = s.output := rfl
@[simp] theorem loadShort_sinkOk : (loadShort s).sinkOk = s.sinkOk := rfl
@[simp] theorem loadShort_host : (loadShort s).host = s.host := rfl
@[simp] theorem loadShort_params : (loadShort s).params = s.params := rfl
@[simp] theorem loadShort_epoch : (loadShort s).epoch = s.epoch := rfl
@[simp] theorem loadShort_rawEpoch : (loadShort s).rawEpoch = s.rawEpoch + 1 := rfl
@[simp] theorem loadShort_resetSeen : (loadShort s).resetSeen = s.resetSeen := rfl

end

/-! ## `unpackStart`: UNPACK's prologue (R46). -/

section

variable (s : State)

@[simp] theorem unpackStart_phase : (unpackStart s).phase = s.phase := rfl
@[simp] theorem unpackStart_cmdreg : (unpackStart s).cmdreg = s.cmdreg := rfl
@[simp] theorem unpackStart_stage : (unpackStart s).stage = s.stage := rfl
@[simp] theorem unpackStart_row : (unpackStart s).row = 0 := rfl
@[simp] theorem unpackStart_col : (unpackStart s).col = 0 := rfl
@[simp] theorem unpackStart_incnt : (unpackStart s).incnt = s.incnt := rfl
@[simp] theorem unpackStart_idx : (unpackStart s).idx = 0 := rfl
@[simp] theorem unpackStart_start : (unpackStart s).start = s.start := rfl
@[simp] theorem unpackStart_outcnt : (unpackStart s).outcnt = s.outcnt := rfl
@[simp] theorem unpackStart_rawV : (unpackStart s).rawV = s.rawV := rfl
@[simp] theorem unpackStart_unpV : (unpackStart s).unpV = false := rfl
@[simp] theorem unpackStart_sclV : (unpackStart s).sclV = false := rfl
@[simp] theorem unpackStart_done : (unpackStart s).done = s.done := rfl
@[simp] theorem unpackStart_err : (unpackStart s).err = s.err := rfl
@[simp] theorem unpackStart_errinfo : (unpackStart s).errinfo = s.errinfo := rfl
@[simp] theorem unpackStart_raw : (unpackStart s).raw = s.raw := rfl
@[simp] theorem unpackStart_unp : (unpackStart s).unp = s.unp := rfl
@[simp] theorem unpackStart_scl : (unpackStart s).scl = s.scl := rfl
@[simp] theorem unpackStart_input : (unpackStart s).input = s.input := rfl
@[simp] theorem unpackStart_output : (unpackStart s).output = s.output := rfl
@[simp] theorem unpackStart_sinkOk : (unpackStart s).sinkOk = s.sinkOk := rfl
@[simp] theorem unpackStart_host : (unpackStart s).host = s.host := rfl
@[simp] theorem unpackStart_params : (unpackStart s).params = s.params := rfl
@[simp] theorem unpackStart_epoch : (unpackStart s).epoch = s.epoch := rfl
@[simp] theorem unpackStart_rawEpoch : (unpackStart s).rawEpoch = s.rawEpoch := rfl
@[simp] theorem unpackStart_resetSeen : (unpackStart s).resetSeen = s.resetSeen := rfl

end

/-! ## `unpackBody`: UNPACK's loop (R46). -/

section

variable (s : State)

@[simp] theorem unpackBody_phase : (unpackBody s).phase = s.phase := rfl
@[simp] theorem unpackBody_cmdreg : (unpackBody s).cmdreg = s.cmdreg := rfl
@[simp] theorem unpackBody_stage : (unpackBody s).stage = s.stage := rfl
@[simp] theorem unpackBody_row : (unpackBody s).row = 63 := rfl
@[simp] theorem unpackBody_col : (unpackBody s).col = 59 := rfl
@[simp] theorem unpackBody_incnt : (unpackBody s).incnt = s.incnt := rfl
@[simp] theorem unpackBody_idx : (unpackBody s).idx = 30720 := rfl
@[simp] theorem unpackBody_start : (unpackBody s).start = s.start := rfl
@[simp] theorem unpackBody_outcnt : (unpackBody s).outcnt = s.outcnt := rfl
@[simp] theorem unpackBody_rawV : (unpackBody s).rawV = s.rawV := rfl
@[simp] theorem unpackBody_unpV : (unpackBody s).unpV = true := rfl
@[simp] theorem unpackBody_sclV : (unpackBody s).sclV = s.sclV := rfl
@[simp] theorem unpackBody_done : (unpackBody s).done = s.done := rfl
@[simp] theorem unpackBody_err : (unpackBody s).err = s.err := rfl
@[simp] theorem unpackBody_errinfo : (unpackBody s).errinfo = s.errinfo := rfl
@[simp] theorem unpackBody_raw : (unpackBody s).raw = s.raw := rfl
@[simp] theorem unpackBody_unp : (unpackBody s).unp = s.unp.writeAll (unpackWrites (s.read .raw)) := by rw [unpackBody]
@[simp] theorem unpackBody_scl : (unpackBody s).scl = s.scl := rfl
@[simp] theorem unpackBody_input : (unpackBody s).input = s.input := rfl
@[simp] theorem unpackBody_output : (unpackBody s).output = s.output := rfl
@[simp] theorem unpackBody_sinkOk : (unpackBody s).sinkOk = s.sinkOk := rfl
@[simp] theorem unpackBody_host : (unpackBody s).host = s.host := rfl
@[simp] theorem unpackBody_params : (unpackBody s).params = s.params := rfl
@[simp] theorem unpackBody_epoch : (unpackBody s).epoch = s.epoch := rfl
@[simp] theorem unpackBody_rawEpoch : (unpackBody s).rawEpoch = s.rawEpoch := rfl
@[simp] theorem unpackBody_resetSeen : (unpackBody s).resetSeen = s.resetSeen := rfl

end

/-! ## `upscaleStart`: UPSCALE's prologue and clear phase (R50). -/

section

variable (s : State)

@[simp] theorem upscaleStart_phase : (upscaleStart s).phase = s.phase := rfl
@[simp] theorem upscaleStart_cmdreg : (upscaleStart s).cmdreg = s.cmdreg := rfl
@[simp] theorem upscaleStart_stage : (upscaleStart s).stage = s.stage := rfl
@[simp] theorem upscaleStart_row : (upscaleStart s).row = s.row := rfl
@[simp] theorem upscaleStart_col : (upscaleStart s).col = s.col := rfl
@[simp] theorem upscaleStart_incnt : (upscaleStart s).incnt = s.incnt := rfl
@[simp] theorem upscaleStart_idx : (upscaleStart s).idx = 0 := rfl
@[simp] theorem upscaleStart_start : (upscaleStart s).start = s.start := rfl
@[simp] theorem upscaleStart_outcnt : (upscaleStart s).outcnt = s.outcnt := rfl
@[simp] theorem upscaleStart_rawV : (upscaleStart s).rawV = s.rawV := rfl
@[simp] theorem upscaleStart_unpV : (upscaleStart s).unpV = s.unpV := rfl
@[simp] theorem upscaleStart_sclV : (upscaleStart s).sclV = false := rfl
@[simp] theorem upscaleStart_done : (upscaleStart s).done = s.done := rfl
@[simp] theorem upscaleStart_err : (upscaleStart s).err = s.err := rfl
@[simp] theorem upscaleStart_errinfo : (upscaleStart s).errinfo = s.errinfo := rfl
@[simp] theorem upscaleStart_raw : (upscaleStart s).raw = s.raw := rfl
@[simp] theorem upscaleStart_unp : (upscaleStart s).unp = s.unp := rfl
@[simp] theorem upscaleStart_scl : (upscaleStart s).scl = s.scl.writeAll clearWrites := by rw [upscaleStart]
@[simp] theorem upscaleStart_input : (upscaleStart s).input = s.input := rfl
@[simp] theorem upscaleStart_output : (upscaleStart s).output = s.output := rfl
@[simp] theorem upscaleStart_sinkOk : (upscaleStart s).sinkOk = s.sinkOk := rfl
@[simp] theorem upscaleStart_host : (upscaleStart s).host = s.host := rfl
@[simp] theorem upscaleStart_params : (upscaleStart s).params = s.params := rfl
@[simp] theorem upscaleStart_epoch : (upscaleStart s).epoch = s.epoch := rfl
@[simp] theorem upscaleStart_rawEpoch : (upscaleStart s).rawEpoch = s.rawEpoch := rfl
@[simp] theorem upscaleStart_resetSeen : (upscaleStart s).resetSeen = s.resetSeen := rfl

end

/-! ## `upscaleBody`: UPSCALE's spread phase (R50). -/

section

variable (s : State)

@[simp] theorem upscaleBody_phase : (upscaleBody s).phase = s.phase := rfl
@[simp] theorem upscaleBody_cmdreg : (upscaleBody s).cmdreg = s.cmdreg := rfl
@[simp] theorem upscaleBody_stage : (upscaleBody s).stage = s.stage := rfl
@[simp] theorem upscaleBody_row : (upscaleBody s).row = s.row := rfl
@[simp] theorem upscaleBody_col : (upscaleBody s).col = s.col := rfl
@[simp] theorem upscaleBody_incnt : (upscaleBody s).incnt = s.incnt := rfl
@[simp] theorem upscaleBody_idx : (upscaleBody s).idx = 30719 := rfl
@[simp] theorem upscaleBody_start : (upscaleBody s).start = BitVec.ofInt 20 (spreadAll s).1 := by rw [upscaleBody]
@[simp] theorem upscaleBody_outcnt : (upscaleBody s).outcnt = s.outcnt := rfl
@[simp] theorem upscaleBody_rawV : (upscaleBody s).rawV = s.rawV := rfl
@[simp] theorem upscaleBody_unpV : (upscaleBody s).unpV = s.unpV := rfl
@[simp] theorem upscaleBody_sclV : (upscaleBody s).sclV = true := rfl
@[simp] theorem upscaleBody_done : (upscaleBody s).done = s.done := rfl
@[simp] theorem upscaleBody_err : (upscaleBody s).err = s.err := rfl
@[simp] theorem upscaleBody_errinfo : (upscaleBody s).errinfo = s.errinfo := rfl
@[simp] theorem upscaleBody_raw : (upscaleBody s).raw = s.raw := rfl
@[simp] theorem upscaleBody_unp : (upscaleBody s).unp = s.unp := rfl
@[simp] theorem upscaleBody_scl : (upscaleBody s).scl = s.scl.writeAll (spreadAll s).2 := by rw [upscaleBody]
@[simp] theorem upscaleBody_input : (upscaleBody s).input = s.input := rfl
@[simp] theorem upscaleBody_output : (upscaleBody s).output = s.output := rfl
@[simp] theorem upscaleBody_sinkOk : (upscaleBody s).sinkOk = s.sinkOk := rfl
@[simp] theorem upscaleBody_host : (upscaleBody s).host = s.host := rfl
@[simp] theorem upscaleBody_params : (upscaleBody s).params = s.params := rfl
@[simp] theorem upscaleBody_epoch : (upscaleBody s).epoch = s.epoch := rfl
@[simp] theorem upscaleBody_rawEpoch : (upscaleBody s).rawEpoch = s.rawEpoch := rfl
@[simp] theorem upscaleBody_resetSeen : (upscaleBody s).resetSeen = s.resetSeen := rfl

end

/-! ## `emitRowsStart`: The counters of a row-by-row emission, first values (R58, R64). -/

section

variable (s : State)

@[simp] theorem emitRowsStart_phase : (emitRowsStart s).phase = s.phase := rfl
@[simp] theorem emitRowsStart_cmdreg : (emitRowsStart s).cmdreg = s.cmdreg := rfl
@[simp] theorem emitRowsStart_stage : (emitRowsStart s).stage = s.stage := rfl
@[simp] theorem emitRowsStart_row : (emitRowsStart s).row = 0 := rfl
@[simp] theorem emitRowsStart_col : (emitRowsStart s).col = 0 := rfl
@[simp] theorem emitRowsStart_incnt : (emitRowsStart s).incnt = s.incnt := rfl
@[simp] theorem emitRowsStart_idx : (emitRowsStart s).idx = s.idx := rfl
@[simp] theorem emitRowsStart_start : (emitRowsStart s).start = s.start := rfl
@[simp] theorem emitRowsStart_outcnt : (emitRowsStart s).outcnt = 0 := rfl
@[simp] theorem emitRowsStart_rawV : (emitRowsStart s).rawV = s.rawV := rfl
@[simp] theorem emitRowsStart_unpV : (emitRowsStart s).unpV = s.unpV := rfl
@[simp] theorem emitRowsStart_sclV : (emitRowsStart s).sclV = s.sclV := rfl
@[simp] theorem emitRowsStart_done : (emitRowsStart s).done = s.done := rfl
@[simp] theorem emitRowsStart_err : (emitRowsStart s).err = s.err := rfl
@[simp] theorem emitRowsStart_errinfo : (emitRowsStart s).errinfo = s.errinfo := rfl
@[simp] theorem emitRowsStart_raw : (emitRowsStart s).raw = s.raw := rfl
@[simp] theorem emitRowsStart_unp : (emitRowsStart s).unp = s.unp := rfl
@[simp] theorem emitRowsStart_scl : (emitRowsStart s).scl = s.scl := rfl
@[simp] theorem emitRowsStart_input : (emitRowsStart s).input = s.input := rfl
@[simp] theorem emitRowsStart_output : (emitRowsStart s).output = s.output := rfl
@[simp] theorem emitRowsStart_sinkOk : (emitRowsStart s).sinkOk = s.sinkOk := rfl
@[simp] theorem emitRowsStart_host : (emitRowsStart s).host = s.host := rfl
@[simp] theorem emitRowsStart_params : (emitRowsStart s).params = s.params := rfl
@[simp] theorem emitRowsStart_epoch : (emitRowsStart s).epoch = s.epoch := rfl
@[simp] theorem emitRowsStart_rawEpoch : (emitRowsStart s).rawEpoch = s.rawEpoch := rfl
@[simp] theorem emitRowsStart_resetSeen : (emitRowsStart s).resetSeen = s.resetSeen := rfl

end

/-! ## `emitRowsEnd`: The counters of a row-by-row emission, last values (R58, R64). -/

section

variable (s : State)

@[simp] theorem emitRowsEnd_phase : (emitRowsEnd s).phase = s.phase := rfl
@[simp] theorem emitRowsEnd_cmdreg : (emitRowsEnd s).cmdreg = s.cmdreg := rfl
@[simp] theorem emitRowsEnd_stage : (emitRowsEnd s).stage = s.stage := rfl
@[simp] theorem emitRowsEnd_row : (emitRowsEnd s).row = 63 := rfl
@[simp] theorem emitRowsEnd_col : (emitRowsEnd s).col = 59 := rfl
@[simp] theorem emitRowsEnd_incnt : (emitRowsEnd s).incnt = s.incnt := rfl
@[simp] theorem emitRowsEnd_idx : (emitRowsEnd s).idx = s.idx := rfl
@[simp] theorem emitRowsEnd_start : (emitRowsEnd s).start = s.start := rfl
@[simp] theorem emitRowsEnd_outcnt : (emitRowsEnd s).outcnt = s.outcnt := rfl
@[simp] theorem emitRowsEnd_rawV : (emitRowsEnd s).rawV = s.rawV := rfl
@[simp] theorem emitRowsEnd_unpV : (emitRowsEnd s).unpV = s.unpV := rfl
@[simp] theorem emitRowsEnd_sclV : (emitRowsEnd s).sclV = s.sclV := rfl
@[simp] theorem emitRowsEnd_done : (emitRowsEnd s).done = s.done := rfl
@[simp] theorem emitRowsEnd_err : (emitRowsEnd s).err = s.err := rfl
@[simp] theorem emitRowsEnd_errinfo : (emitRowsEnd s).errinfo = s.errinfo := rfl
@[simp] theorem emitRowsEnd_raw : (emitRowsEnd s).raw = s.raw := rfl
@[simp] theorem emitRowsEnd_unp : (emitRowsEnd s).unp = s.unp := rfl
@[simp] theorem emitRowsEnd_scl : (emitRowsEnd s).scl = s.scl := rfl
@[simp] theorem emitRowsEnd_input : (emitRowsEnd s).input = s.input := rfl
@[simp] theorem emitRowsEnd_output : (emitRowsEnd s).output = s.output := rfl
@[simp] theorem emitRowsEnd_sinkOk : (emitRowsEnd s).sinkOk = s.sinkOk := rfl
@[simp] theorem emitRowsEnd_host : (emitRowsEnd s).host = s.host := rfl
@[simp] theorem emitRowsEnd_params : (emitRowsEnd s).params = s.params := rfl
@[simp] theorem emitRowsEnd_epoch : (emitRowsEnd s).epoch = s.epoch := rfl
@[simp] theorem emitRowsEnd_rawEpoch : (emitRowsEnd s).rawEpoch = s.rawEpoch := rfl
@[simp] theorem emitRowsEnd_resetSeen : (emitRowsEnd s).resetSeen = s.resetSeen := rfl

end

/-! ## `emitFlatStart`: The counter of a flat emission (R59). -/

section

variable (s : State)

@[simp] theorem emitFlatStart_phase : (emitFlatStart s).phase = s.phase := rfl
@[simp] theorem emitFlatStart_cmdreg : (emitFlatStart s).cmdreg = s.cmdreg := rfl
@[simp] theorem emitFlatStart_stage : (emitFlatStart s).stage = s.stage := rfl
@[simp] theorem emitFlatStart_row : (emitFlatStart s).row = s.row := rfl
@[simp] theorem emitFlatStart_col : (emitFlatStart s).col = s.col := rfl
@[simp] theorem emitFlatStart_incnt : (emitFlatStart s).incnt = s.incnt := rfl
@[simp] theorem emitFlatStart_idx : (emitFlatStart s).idx = s.idx := rfl
@[simp] theorem emitFlatStart_start : (emitFlatStart s).start = s.start := rfl
@[simp] theorem emitFlatStart_outcnt : (emitFlatStart s).outcnt = 0 := rfl
@[simp] theorem emitFlatStart_rawV : (emitFlatStart s).rawV = s.rawV := rfl
@[simp] theorem emitFlatStart_unpV : (emitFlatStart s).unpV = s.unpV := rfl
@[simp] theorem emitFlatStart_sclV : (emitFlatStart s).sclV = s.sclV := rfl
@[simp] theorem emitFlatStart_done : (emitFlatStart s).done = s.done := rfl
@[simp] theorem emitFlatStart_err : (emitFlatStart s).err = s.err := rfl
@[simp] theorem emitFlatStart_errinfo : (emitFlatStart s).errinfo = s.errinfo := rfl
@[simp] theorem emitFlatStart_raw : (emitFlatStart s).raw = s.raw := rfl
@[simp] theorem emitFlatStart_unp : (emitFlatStart s).unp = s.unp := rfl
@[simp] theorem emitFlatStart_scl : (emitFlatStart s).scl = s.scl := rfl
@[simp] theorem emitFlatStart_input : (emitFlatStart s).input = s.input := rfl
@[simp] theorem emitFlatStart_output : (emitFlatStart s).output = s.output := rfl
@[simp] theorem emitFlatStart_sinkOk : (emitFlatStart s).sinkOk = s.sinkOk := rfl
@[simp] theorem emitFlatStart_host : (emitFlatStart s).host = s.host := rfl
@[simp] theorem emitFlatStart_params : (emitFlatStart s).params = s.params := rfl
@[simp] theorem emitFlatStart_epoch : (emitFlatStart s).epoch = s.epoch := rfl
@[simp] theorem emitFlatStart_rawEpoch : (emitFlatStart s).rawEpoch = s.rawEpoch := rfl
@[simp] theorem emitFlatStart_resetSeen : (emitFlatStart s).resetSeen = s.resetSeen := rfl

end

end Sys2Proof.Machine
end

