-- ==== Sys2Proof/Laws/Ops.lean ====
section
/-!
SUPPORT. What the shared operations can do, said once: going on after a gate, a whole command, a primitive whose gates
pass and one whose gates do not, and what reading a buffer depends on.
-/

namespace Sys2Proof.Machine

/-! ## Going on, and whole commands -/

@[simp] theorem State.andThen_run {s : State} (f : State → State) (h : s.phase = .run) : s.andThen f = f s := if_pos h

@[simp] theorem State.andThen_stop {s : State} (f : State → State) (h : s.phase ≠ .run) : s.andThen f = s := if_neg h

/-- A raised fault ends the command. -/
@[simp] theorem State.andThen_raise (s : State) (e : Cause) (info : BitVec 16) (f : State → State) :
    (s.raise e info).andThen f = s.raise e info := State.andThen_stop f (by simp)

theorem command_idle {w : Byte} {body : State → State} {s : State} (h : s.phase = .idle) :
    command w body s = .next ((body (s.accept w)).andThen State.complete) := if_pos h

theorem command_not_idle {w : Byte} {body : State → State} {s : State} (h : s.phase ≠ .idle) :
    command w body s = .next s := if_neg h

/-- Every command answers a next state. -/
theorem exec_answers_next (i : Instr) (s : State) : ∃ t, exec i s = .next t := by
  have h : ∀ (w : Byte) (body : State → State), ∃ t, command w body s = .next t := fun w body => by
    unfold command; split_ifs <;> exact ⟨_, rfl⟩
  cases i <;> exact h _ _

/-! ## Gates -/

theorem State.requireValid_ok {s : State} {b : Buffer} (h : s.valid b = true) : s.requireValid b = s := if_pos h

theorem State.requireValid_fail {s : State} {b : Buffer} (h : s.valid b = false) :
    s.requireValid b = s.raise .operandNotValid (s.cmdreg.setWidth 16) := if_neg (by simp [h])

theorem State.requireSink_ok {s : State} (h : s.sinkOk = true) : s.requireSink = s := if_pos h

theorem State.requireSink_fail {s : State} (h : s.sinkOk = false) :
    s.requireSink = s.raise .destinationWriteError 0 := if_neg (by simp [h])

@[simp] theorem State.valid_enterStage (s : State) (st : Stage) (b : Buffer) : (s.enterStage st).valid b = s.valid b := by
  cases b <;> rfl

@[simp] theorem State.valid_accept (s : State) (w : Byte) (b : Buffer) : (s.accept w).valid b = s.valid b := by
  cases b <;> rfl

/-! ## The primitives, gate by gate -/

theorem load_long {s : State} (h : 4096 ≤ s.input.length) : load s = loadFull (loadEnter s) := if_pos h

theorem load_short {s : State} (h : s.input.length < 4096) : load s = loadShort (loadEnter s) :=
  if_neg (Nat.not_le.2 h)

theorem unpackEnter_ok {s : State} (hp : s.phase = .run) (hv : s.rawV = true) :
    unpackEnter s = unpackStart (s.enterStage .unpack) := by
  rw [unpackEnter, State.requireValid_ok (by simpa [State.valid] using hv), State.andThen_run _ (by simpa using hp)]

theorem unpackEnter_invalid {s : State} (hv : s.rawV = false) :
    unpackEnter s = (s.enterStage .unpack).raise .operandNotValid (s.cmdreg.setWidth 16) := by
  rw [unpackEnter, State.requireValid_fail (by simpa [State.valid] using hv), State.andThen_raise]; rfl

theorem unpack_ok {s : State} (hp : s.phase = .run) (hv : s.rawV = true) :
    unpack s = unpackBody (unpackStart (s.enterStage .unpack)) := by
  rw [unpack, unpackEnter_ok hp hv, State.andThen_run _ (by simpa using hp)]

theorem unpack_invalid {s : State} (hv : s.rawV = false) :
    unpack s = (s.enterStage .unpack).raise .operandNotValid (s.cmdreg.setWidth 16) := by
  rw [unpack, unpackEnter_invalid hv, State.andThen_raise]

theorem upscaleEnter_ok {s : State} (hp : s.phase = .run) (hv : s.unpV = true) :
    upscaleEnter s = upscaleStart (s.enterStage .upscale) := by
  rw [upscaleEnter, State.requireValid_ok (by simpa [State.valid] using hv), State.andThen_run _ (by simpa using hp)]

theorem upscaleEnter_invalid {s : State} (hv : s.unpV = false) :
    upscaleEnter s = (s.enterStage .upscale).raise .operandNotValid (s.cmdreg.setWidth 16) := by
  rw [upscaleEnter, State.requireValid_fail (by simpa [State.valid] using hv), State.andThen_raise]; rfl

theorem upscale_ok {s : State} (hp : s.phase = .run) (hv : s.unpV = true) :
    upscale s = upscaleBody (upscaleStart (s.enterStage .upscale)) := by
  rw [upscale, upscaleEnter_ok hp hv, State.andThen_run _ (by simpa using hp)]

theorem upscale_invalid {s : State} (hv : s.unpV = false) :
    upscale s = (s.enterStage .upscale).raise .operandNotValid (s.cmdreg.setWidth 16) := by
  rw [upscale, upscaleEnter_invalid hv, State.andThen_raise]

theorem emitBmpGate_ok {s : State} {b : Buffer} (hp : s.phase = .run) (hv : s.valid b = true) (hs : s.sinkOk = true) :
    emitBmpGate b s = s.enterStage .emitBmp := by
  rw [emitBmpGate, State.requireValid_ok (by simpa using hv), State.andThen_run _ (by simpa using hp),
    State.requireSink_ok (by simpa using hs)]

theorem emitBmpGate_invalid {s : State} {b : Buffer} (hv : s.valid b = false) :
    emitBmpGate b s = (s.enterStage .emitBmp).raise .operandNotValid (s.cmdreg.setWidth 16) := by
  rw [emitBmpGate, State.requireValid_fail (by simpa using hv), State.andThen_raise]; rfl

theorem emitBmpGate_refused {s : State} {b : Buffer} (hp : s.phase = .run) (hv : s.valid b = true)
    (hs : s.sinkOk = false) : emitBmpGate b s = (s.enterStage .emitBmp).raise .destinationWriteError 0 := by
  rw [emitBmpGate, State.requireValid_ok (by simpa using hv), State.andThen_run _ (by simpa using hp),
    State.requireSink_fail (by simpa using hs)]

theorem emitPcxGate_ok {s : State} (hp : s.phase = .run) (hv : s.rawV = true) (hs : s.sinkOk = true) :
    emitPcxGate s = s.enterStage .emitPcx := by
  rw [emitPcxGate, State.requireValid_ok (by simpa [State.valid] using hv), State.andThen_run _ (by simpa using hp),
    State.requireSink_ok (by simpa using hs)]

theorem emitPcxGate_invalid {s : State} (hv : s.rawV = false) :
    emitPcxGate s = (s.enterStage .emitPcx).raise .operandNotValid (s.cmdreg.setWidth 16) := by
  rw [emitPcxGate, State.requireValid_fail (by simpa [State.valid] using hv), State.andThen_raise]; rfl

theorem emitPcxGate_refused {s : State} (hp : s.phase = .run) (hv : s.rawV = true) (hs : s.sinkOk = false) :
    emitPcxGate s = (s.enterStage .emitPcx).raise .destinationWriteError 0 := by
  rw [emitPcxGate, State.requireValid_ok (by simpa [State.valid] using hv), State.andThen_run _ (by simpa using hp),
    State.requireSink_fail (by simpa using hs)]

theorem emitBmpREnter_ok {s : State} (hp : s.phase = .run) (hv : s.rawV = true) (hs : s.sinkOk = true) :
    emitBmpREnter s = emitRowsStart (s.enterStage .emitBmp) := by
  rw [emitBmpREnter, emitBmpGate_ok (b := .raw) hp hv hs, State.andThen_run _ (by simpa using hp)]

theorem emitBmpR_ok {s : State} (hp : s.phase = .run) (hv : s.rawV = true) (hs : s.sinkOk = true) :
    emitBmpR s = emitBmpRBody (emitRowsStart (s.enterStage .emitBmp)) := by
  rw [emitBmpR, emitBmpREnter_ok hp hv hs, State.andThen_run _ (by simpa using hp)]

theorem emitBmpREnter_invalid {s : State} (hv : s.rawV = false) :
    emitBmpREnter s = (s.enterStage .emitBmp).raise .operandNotValid (s.cmdreg.setWidth 16) := by
  rw [emitBmpREnter, emitBmpGate_invalid (b := .raw) hv, State.andThen_raise]

theorem emitBmpR_invalid {s : State} (hv : s.rawV = false) :
    emitBmpR s = (s.enterStage .emitBmp).raise .operandNotValid (s.cmdreg.setWidth 16) := by
  rw [emitBmpR, emitBmpREnter_invalid hv, State.andThen_raise]

theorem emitBmpREnter_refused {s : State} (hp : s.phase = .run) (hv : s.rawV = true) (hs : s.sinkOk = false) :
    emitBmpREnter s = (s.enterStage .emitBmp).raise .destinationWriteError 0 := by
  rw [emitBmpREnter, emitBmpGate_refused (b := .raw) hp hv hs, State.andThen_raise]

theorem emitBmpR_refused {s : State} (hp : s.phase = .run) (hv : s.rawV = true) (hs : s.sinkOk = false) :
    emitBmpR s = (s.enterStage .emitBmp).raise .destinationWriteError 0 := by
  rw [emitBmpR, emitBmpREnter_refused hp hv hs, State.andThen_raise]

theorem emitBmpSEnter_ok {s : State} (hp : s.phase = .run) (hv : s.sclV = true) (hs : s.sinkOk = true) :
    emitBmpSEnter s = emitFlatStart (s.enterStage .emitBmp) := by
  rw [emitBmpSEnter, emitBmpGate_ok (b := .scl) hp hv hs, State.andThen_run _ (by simpa using hp)]

theorem emitBmpS_ok {s : State} (hp : s.phase = .run) (hv : s.sclV = true) (hs : s.sinkOk = true) :
    emitBmpS s = emitBmpSBody (emitFlatStart (s.enterStage .emitBmp)) := by
  rw [emitBmpS, emitBmpSEnter_ok hp hv hs, State.andThen_run _ (by simpa using hp)]

theorem emitBmpSEnter_invalid {s : State} (hv : s.sclV = false) :
    emitBmpSEnter s = (s.enterStage .emitBmp).raise .operandNotValid (s.cmdreg.setWidth 16) := by
  rw [emitBmpSEnter, emitBmpGate_invalid (b := .scl) hv, State.andThen_raise]

theorem emitBmpS_invalid {s : State} (hv : s.sclV = false) :
    emitBmpS s = (s.enterStage .emitBmp).raise .operandNotValid (s.cmdreg.setWidth 16) := by
  rw [emitBmpS, emitBmpSEnter_invalid hv, State.andThen_raise]

theorem emitBmpSEnter_refused {s : State} (hp : s.phase = .run) (hv : s.sclV = true) (hs : s.sinkOk = false) :
    emitBmpSEnter s = (s.enterStage .emitBmp).raise .destinationWriteError 0 := by
  rw [emitBmpSEnter, emitBmpGate_refused (b := .scl) hp hv hs, State.andThen_raise]

theorem emitBmpS_refused {s : State} (hp : s.phase = .run) (hv : s.sclV = true) (hs : s.sinkOk = false) :
    emitBmpS s = (s.enterStage .emitBmp).raise .destinationWriteError 0 := by
  rw [emitBmpS, emitBmpSEnter_refused hp hv hs, State.andThen_raise]

theorem emitPcxEnter_ok {s : State} (hp : s.phase = .run) (hv : s.rawV = true) (hs : s.sinkOk = true) :
    emitPcxEnter s = emitRowsStart (s.enterStage .emitPcx) := by
  rw [emitPcxEnter, emitPcxGate_ok hp hv hs, State.andThen_run _ (by simpa using hp)]

theorem emitPcx_ok {s : State} (hp : s.phase = .run) (hv : s.rawV = true) (hs : s.sinkOk = true) :
    emitPcx s = emitPcxBody (emitRowsStart (s.enterStage .emitPcx)) := by
  rw [emitPcx, emitPcxEnter_ok hp hv hs, State.andThen_run _ (by simpa using hp)]

theorem emitPcxEnter_invalid {s : State} (hv : s.rawV = false) :
    emitPcxEnter s = (s.enterStage .emitPcx).raise .operandNotValid (s.cmdreg.setWidth 16) := by
  rw [emitPcxEnter, emitPcxGate_invalid hv, State.andThen_raise]

theorem emitPcx_invalid {s : State} (hv : s.rawV = false) :
    emitPcx s = (s.enterStage .emitPcx).raise .operandNotValid (s.cmdreg.setWidth 16) := by
  rw [emitPcx, emitPcxEnter_invalid hv, State.andThen_raise]

theorem emitPcxEnter_refused {s : State} (hp : s.phase = .run) (hv : s.rawV = true) (hs : s.sinkOk = false) :
    emitPcxEnter s = (s.enterStage .emitPcx).raise .destinationWriteError 0 := by
  rw [emitPcxEnter, emitPcxGate_refused hp hv hs, State.andThen_raise]

theorem emitPcx_refused {s : State} (hp : s.phase = .run) (hv : s.rawV = true) (hs : s.sinkOk = false) :
    emitPcx s = (s.enterStage .emitPcx).raise .destinationWriteError 0 := by
  rw [emitPcx, emitPcxEnter_refused hp hv hs, State.andThen_raise]

/-! ## Reading a buffer -/

@[simp] theorem State.drawOf_raw (s : State) : s.drawOf .raw = s.rawEpoch := rfl

@[simp] theorem State.drawOf_unp (s : State) : s.drawOf .unp = s.epoch := rfl

@[simp] theorem State.drawOf_scl (s : State) : s.drawOf .scl = s.epoch := rfl

/-- A read depends on the buffer's storage and its draw only. -/
theorem State.read_congr {s t : State} {b : Buffer} (hm : t.mem b = s.mem b) (he : t.drawOf b = s.drawOf b) (a : Nat) :
    t.read b a = s.read b a := by
  rw [State.read, State.read, hm, he]

/-- A listed cell reads as its byte. -/
theorem State.read_of_cell? {s : State} {b : Buffer} {a : Nat} {v : Byte} (h : (s.mem b).cell? a = some v) :
    s.read b a = v := by
  rw [State.read, h]; rfl

@[simp] theorem State.mem_raw (s : State) : s.mem .raw = s.raw := rfl

@[simp] theorem State.mem_unp (s : State) : s.mem .unp = s.unp := rfl

@[simp] theorem State.mem_scl (s : State) : s.mem .scl = s.scl := rfl

@[simp] theorem State.readFlat_length (s : State) (b : Buffer) (n : Nat) : (s.readFlat b n).length = n := by
  simp [State.readFlat]

theorem State.readFlat_getElem? (s : State) (b : Buffer) {n a : Nat} (h : a < n) :
    (s.readFlat b n)[a]? = some (s.read b a) := by
  simp [State.readFlat, h]

/-! ## Files -/

@[simp] theorem markLast_length (bs : List Byte) : (markLast bs).length = bs.length := by
  simp [markLast]

theorem markLast_getElem? (bs : List Byte) (k : Nat) :
    (markLast bs)[k]? = (bs[k]?).map fun v => (v, k + 1 == bs.length) := by
  simp [markLast, List.getElem?_zipIdx, Function.comp_def]

/-- A file without its marks is the bytes it was made of. -/
@[simp] theorem markLast_map_fst (bs : List Byte) : (markLast bs).map Prod.fst = bs := by
  refine List.ext_getElem? fun k => ?_
  rw [List.getElem?_map, markLast_getElem?]
  cases bs[k]? <;> rfl

@[simp] theorem bmpHeader_length (p : Params) (scale : Bool) : (bmpHeader p scale).length = 146 := by
  simp [bmpHeader, bmpFileHeader, bmpDibHeader, bmpColourTable, u32le, u16le]

@[simp] theorem encode_load : encode .load = 0x01 := rfl
@[simp] theorem encode_unpack : encode .unpack = 0x02 := rfl
@[simp] theorem encode_upscale : encode .upscale = 0x03 := rfl
@[simp] theorem encode_emitBmpR : encode .emitBmpR = 0x04 := rfl
@[simp] theorem encode_emitBmpS : encode .emitBmpS = 0x0C := rfl
@[simp] theorem encode_emitPcx : encode .emitPcx = 0x05 := rfl
@[simp] theorem encode_convBmpR : encode .convBmpR = 0x14 := rfl
@[simp] theorem encode_convBmpS : encode .convBmpS = 0x1C := rfl
@[simp] theorem encode_convPcx : encode .convPcx = 0x15 := rfl

end Sys2Proof.Machine
end

