-- ==== Sys2Proof/Laws/Buffers.lean ====
section
/-!
SUPPORT. What each producer writes: the cells of LOAD's, UNPACK's and UPSCALE's writes, and what a buffer holds after
them.
-/

namespace Sys2Proof.Machine

open Sys2Proof.Safety

/-! ## LOAD -/

theorem frameWrite_eq_some {v : Byte} {k a : Nat} {u : Byte} :
    frameWrite v k = some (a, u) ↔ k % 64 < 60 ∧ a = rawIndex (k / 64) (k % 64) ∧ u = v := by
  unfold frameWrite
  split_ifs with h
  · simp [h, eq_comm]
  · simp [h]

theorem mem_frameWrites {ds : List Byte} {a : Nat} {v : Byte} :
    (a, v) ∈ frameWrites ds ↔ ∃ k, ds[k]? = some v ∧ k % 64 < 60 ∧ a = rawIndex (k / 64) (k % 64) := by
  simp only [frameWrites, List.mem_filterMap, Prod.exists, List.mem_zipIdx_iff_getElem?, frameWrite_eq_some]
  constructor
  · rintro ⟨u, k, hk, h1, h2, rfl⟩
    exact ⟨k, by simpa using hk, h1, h2⟩
  · rintro ⟨k, hk, h1, h2⟩
    exact ⟨v, k, by simpa using hk, h1, h2, rfl⟩

/-- The bytes of a frame land at distinct cells. -/
theorem rawIndex_inj {r b r' b' : Nat} (hb : b < 60) (hb' : b' < 60) (h : rawIndex r b = rawIndex r' b') :
    r = r' ∧ b = b' := by
  unfold rawIndex at h; omega

/-- What LOAD's writes leave in a pixel cell. -/
theorem cell?_frameWrites (m : Memory) {ds : List Byte} {k : Nat} {v : Byte} (hk : ds[k]? = some v) (h : k % 64 < 60) :
    (m.writeAll (frameWrites ds)).cell? (rawIndex (k / 64) (k % 64)) = some v := by
  refine Memory.cell?_writeAll_of_forall m ?_ ?_
  · exact List.mem_map.2 ⟨_, mem_frameWrites.2 ⟨k, hk, h, rfl⟩, rfl⟩
  · rintro ⟨a, u⟩ hw rfl
    obtain ⟨k', hk', h', e⟩ := mem_frameWrites.1 hw
    have := rawIndex_inj h h' e
    have : k = k' := by omega
    subst this
    rw [hk] at hk'
    exact (Option.some.inj hk').symm

/-- LOAD's writes stay inside `RAW`. -/
theorem frameWrites_lt {ds : List Byte} (hl : ds.length ≤ 4096) : ∀ w ∈ frameWrites ds, w.1 < 3840 := by
  rintro ⟨a, v⟩ hw
  obtain ⟨k, hk, h, rfl⟩ := mem_frameWrites.1 hw
  have : k < ds.length := (List.getElem?_eq_some_iff.1 hk).1
  simp only [rawIndex]
  omega

/-! ## UNPACK -/

/-- Pixel `k` of a packed byte is the bit shifted down and masked (R24, R46). -/
theorem pixelOf_eq (v : Byte) {k : Nat} (h : k < 8) : pixelOf v k = (v >>> (7 - k)) &&& 1 := by
  revert v
  interval_cases k <;> decide +kernel

theorem mem_byteWrites {idx a : Nat} {v u : Byte} :
    (a, u) ∈ byteWrites idx v ↔ ∃ k < 8, a = idx + k ∧ u = pixelOf v k := by
  simp [byteWrites, eq_comm]

theorem mem_unpackWrites {rd : Nat → Byte} {a : Nat} {v : Byte} :
    (a, v) ∈ unpackWrites rd ↔
      ∃ r < 64, ∃ b < 60, ∃ k < 8, a = unpIndex r (b * 8) + k ∧ v = pixelOf (rd (rawIndex (63 - r) b)) k := by
  simp only [unpackWrites, List.mem_flatMap, List.mem_range, mem_byteWrites]

/-- What UNPACK's writes leave in a pixel cell. -/
theorem cell?_unpackWrites (m : Memory) (rd : Nat → Byte) {r c : Nat} (hr : r < 64) (hc : c < 480) :
    (m.writeAll (unpackWrites rd)).cell? (unpIndex r c) = some (pixelOf (rd (rawIndex (63 - r) (c / 8))) (c % 8)) := by
  refine Memory.cell?_writeAll_of_forall m ?_ ?_
  · refine List.mem_map.2 ⟨(unpIndex r c, _), mem_unpackWrites.2 ⟨r, hr, c / 8, by omega, c % 8, by omega, ?_, rfl⟩, rfl⟩
    simp only [unpIndex]; omega
  · rintro ⟨a, u⟩ hw rfl
    obtain ⟨r', hr', b, hb, k, hk, e, rfl⟩ := mem_unpackWrites.1 hw
    simp only [unpIndex] at e
    have h1 : r' = r := by omega
    have h2 : b = c / 8 := by omega
    have h3 : k = c % 8 := by omega
    subst h1 h2 h3
    rfl

/-- UNPACK's writes stay inside `UNP`. -/
theorem unpackWrites_lt (rd : Nat → Byte) : ∀ w ∈ unpackWrites rd, w.1 < 30720 := by
  rintro ⟨a, v⟩ hw
  obtain ⟨r, hr, b, hb, k, hk, rfl, -⟩ := mem_unpackWrites.1 hw
  simp only [unpIndex]
  omega

/-! ## UPSCALE -/

theorem mem_spreadWrites {start : Int} {p v : Byte} {a : Nat} :
    (a, v) ∈ spreadWrites start p ↔ v = p ∧ a < 276480 ∧ ∃ δ ∈ delta, (a : Int) = start + δ := by
  simp only [spreadWrites, List.mem_filterMap, clip]
  constructor
  · rintro ⟨δ, hδ, h⟩
    split_ifs at h with hb
    · simp only [Option.some.injEq, Prod.mk.injEq] at h
      exact ⟨h.2.symm, by omega, δ, hδ, by omega⟩
  · rintro ⟨rfl, ha, δ, hδ, e⟩
    refine ⟨δ, hδ, ?_⟩
    rw [if_pos (by omega)]
    simp only [Option.some.injEq, Prod.mk.injEq, and_true]
    omega

/-- The recurrence of R50 keeps `START` at the anchor of the current source pixel. -/
theorem nextStart_anchor {idx : Nat} {start : Int} (h : idx % 480 ≠ 0 → start = anchor (idx - 1)) :
    nextStart idx start = anchor idx := by
  unfold nextStart anchor at *
  split_ifs with h0
  · omega
  · rw [h h0]; omega

/-- The last value of `START`, and the writes, of a spread phase from source pixel `idx` on. -/
theorem spreadFrom_anchor (ps : List Byte) (idx : Nat) (start : Int)
    (h : idx % 480 ≠ 0 → start = anchor (idx - 1)) :
    (spreadFrom ps idx start).1 = (if ps = [] then start else anchor (idx + ps.length - 1)) ∧
    (spreadFrom ps idx start).2 = (ps.zipIdx idx).flatMap fun p => spreadWrites (anchor p.2) p.1 := by
  induction ps generalizing idx start with
  | nil => simp [spreadFrom]
  | cons p ps ih =>
    have hs := nextStart_anchor h
    have := ih (idx + 1) (nextStart idx start) (fun _ => by simpa using hs)
    rw [hs] at this
    unfold spreadFrom
    simp only [hs, this.1, this.2, List.length_cons, List.zipIdx_cons, List.flatMap_cons, and_true]
    rw [if_neg (List.cons_ne_nil p ps)]
    split_ifs with h0
    · rw [h0]; rfl
    · rw [show idx + 1 + ps.length - 1 = idx + (ps.length + 1) - 1 by omega]

theorem mem_spreadAll {s : State} {a : Nat} {v : Byte} :
    (a, v) ∈ (spreadAll s).2 ↔
      ∃ idx < 30720, v = s.read .unp idx ∧ a < 276480 ∧ ∃ δ ∈ delta, (a : Int) = anchor idx + δ := by
  rw [spreadAll, (spreadFrom_anchor _ 0 _ (by simp)).2]
  simp only [List.mem_flatMap, Prod.exists, List.mem_zipIdx_iff_getElem?, mem_spreadWrites]
  constructor
  · rintro ⟨p, idx, h, rfl, ha, hδ⟩
    have hlt : idx < 30720 := by
      have := (List.getElem?_eq_some_iff.1 (by simpa using h)).1
      simpa using this
    rw [State.readFlat_getElem? s .unp hlt] at h
    exact ⟨idx, hlt, (Option.some.inj h).symm, ha, hδ⟩
  · rintro ⟨idx, hlt, rfl, ha, hδ⟩
    exact ⟨s.read .unp idx, idx, by simpa using State.readFlat_getElem? s .unp hlt, rfl, ha, hδ⟩

/-- Every target of a source pixel lies in the tile of that pixel, one cell down (R53). -/
theorem tileSource_target {idx a : Nat} {δ : Int} (hi : idx < 30720) (hδ : δ ∈ delta) (e : (a : Int) = anchor idx + δ) :
    a < 276479 ∧ tileSource (a + 1) = idx := by
  simp only [delta, List.mem_cons, List.not_mem_nil, or_false] at hδ
  unfold anchor at e
  unfold tileSource unpIndex
  rcases hδ with rfl | rfl | rfl | rfl | rfl | rfl | rfl | rfl | rfl <;> omega

/-- Every cell but the last is a target of the source pixel of its tile, one cell up (R53). -/
theorem exists_target {d : Nat} (hd : d < 276479) :
    tileSource (d + 1) < 30720 ∧ ∃ δ ∈ delta, (d : Int) = anchor (tileSource (d + 1)) + δ := by
  have hs : tileSource (d + 1) = (d + 1) / 1440 / 3 * 480 + (d + 1) % 1440 / 3 := rfl
  refine ⟨by rw [hs]; omega, ((d + 1) / 1440 % 3 : Nat) * 1440 - 1440 + (((d + 1) % 1440 % 3 : Nat) - 1), ?_, ?_⟩
  · have h1 : (d + 1) / 1440 % 3 < 3 := Nat.mod_lt _ (by decide)
    have h2 : (d + 1) % 1440 % 3 < 3 := Nat.mod_lt _ (by decide)
    generalize (d + 1) / 1440 % 3 = p at h1
    generalize (d + 1) % 1440 % 3 = q at h2
    interval_cases p <;> interval_cases q <;> decide
  · rw [hs]; unfold anchor; omega

/-- What the clear phase leaves (R50). -/
theorem cell?_clearWrites (m : Memory) {d : Nat} (hd : d < 276480) : (m.writeAll clearWrites).cell? d = some 0x00 := by
  refine Memory.cell?_writeAll_of_forall m ?_ ?_
  · simp only [clearWrites, List.map_map, List.mem_map, List.mem_range]
    exact ⟨d, hd, rfl⟩
  · intro w hw _
    simp only [clearWrites, List.mem_map] at hw
    obtain ⟨_, _, rfl⟩ := hw
    rfl

theorem clearWrites_lt : ∀ w ∈ clearWrites, w.1 < 276480 := by
  intro w hw
  simp only [clearWrites, List.mem_map, List.mem_range] at hw
  obtain ⟨d, hd, rfl⟩ := hw
  exact hd

theorem spreadWrites_lt (start : Int) (p : Byte) : ∀ w ∈ spreadWrites start p, w.1 < 276480 := by
  rintro ⟨a, v⟩ hw
  exact (mem_spreadWrites.1 hw).2.1

/-- What the spread phase leaves in every cell but the last (R53). -/
theorem cell?_spreadAll (s : State) (m : Memory) {d : Nat} (hd : d < 276479) :
    (m.writeAll (spreadAll s).2).cell? d = some (s.read .unp (tileSource (d + 1))) := by
  obtain ⟨h1, δ, hδ, e⟩ := exists_target hd
  refine Memory.cell?_writeAll_of_forall m ?_ ?_
  · exact List.mem_map.2 ⟨_, mem_spreadAll.2 ⟨_, h1, rfl, by omega, δ, hδ, e⟩, rfl⟩
  · rintro ⟨a, v⟩ hw rfl
    obtain ⟨i, hi, rfl, -, δ', hδ', e'⟩ := mem_spreadAll.1 hw
    rw [(tileSource_target hi hδ' e').2]

/-- The spread phase does not reach the last cell (R53, R90). -/
theorem cell?_spreadAll_last (s : State) (m : Memory) :
    (m.writeAll (spreadAll s).2).cell? 276479 = m.cell? 276479 := by
  refine Memory.cell?_writeAll_of_not_mem m fun h => ?_
  obtain ⟨⟨a, v⟩, hw, e⟩ := List.mem_map.1 h
  obtain ⟨i, hi, -, -, δ, hδ, e'⟩ := mem_spreadAll.1 hw
  have := (tileSource_target hi hδ e').1
  simp only at e
  omega

/-- The writes of the spread phase depend on what `UNP` reads as only, not on the old value of `START` (R50). -/
theorem spreadAll_congr {s t : State} (h : t.unp = s.unp) (he : t.epoch = s.epoch) :
    (spreadAll t).2 = (spreadAll s).2 := by
  have hr : t.read .unp = s.read .unp := funext fun a => State.read_congr (b := .unp) (by simpa using h) (by simpa using he) a
  rw [spreadAll, spreadAll, (spreadFrom_anchor _ 0 _ (by simp)).2, (spreadFrom_anchor _ 0 _ (by simp)).2,
    State.readFlat, State.readFlat, hr]

theorem spreadAll_lt (s : State) : ∀ w ∈ (spreadAll s).2, w.1 < 276480 := by
  rintro ⟨a, v⟩ hw
  obtain ⟨_, _, _, h, _⟩ := mem_spreadAll.1 hw
  exact h

end Sys2Proof.Machine
end

