-- ==== Sys2Proof/Laws/Step.lean ====
section
/-!
SUPPORT. What one step is, by what the host does next; and what a strobe and a pulse are, by the phase.
-/

namespace Sys2Proof.Machine

theorem step_nil {s : State} (hr : s.resetSeen = true) (hh : s.host = []) : step s = quiet s := by
  unfold step hostStep; rw [if_pos hr, hh]

theorem step_cons {s : State} {e : HostEvent} {rest : List HostEvent} (hr : s.resetSeen = true)
    (hh : s.host = e :: rest) : step s = react e rest s := by
  unfold step hostStep; rw [if_pos hr, hh]

theorem step_rst {s : State} {rest : List HostEvent} (hh : s.host = .rst :: rest) :
    step s = .next (State.hardReset { s with host := rest }) := by
  by_cases hr : s.resetSeen = true
  · rw [step_cons hr hh]; rfl
  · unfold step hostStep reactBeforeReset; rw [if_neg hr, hh]

theorem step_before_reset {s : State} (hr : s.resetSeen = false) (hh : ∀ rest, s.host ≠ .rst :: rest) :
    step s = .refused .beforeFirstReset := by
  unfold step hostStep reactBeforeReset
  rw [if_neg (by simp [hr])]
  split
  · exact absurd ‹_› (hh _)
  · rfl

theorem quiet_run {s : State} (h : s.phase = .run) : quiet s = beat s := if_pos h

theorem quiet_not_run {s : State} (h : s.phase ≠ .run) : quiet s = .next s := if_neg h

theorem react_issue_run {s : State} {w : Byte} {rest : List HostEvent} (h : s.phase = .run) :
    react (.issue w) rest s = beat s := by
  rw [react, if_pos h, quiet_run h]

theorem react_issue_not_run {s : State} {w : Byte} {rest : List HostEvent} (h : s.phase ≠ .run) :
    react (.issue w) rest s = strobe w { s with host := rest } := if_neg h

/-- A command strobed while the block is not idle changes nothing. -/
theorem exec_not_idle {s : State} (i : Instr) (h : s.phase ≠ .idle) : exec i s = .next s := by
  cases i <;> exact command_not_idle h

theorem execIllegal_not_idle {s : State} (w : Byte) (h : s.phase ≠ .idle) : execIllegal w s = .next s := if_neg h

theorem execIllegal_idle {s : State} (w : Byte) (h : s.phase = .idle) :
    execIllegal w s = .next ((s.accept w).raise .illegalCommand (w.setWidth 16)) := if_pos h

theorem strobe_not_idle {s : State} (w : Byte) (h : s.phase ≠ .idle) : strobe w s = .next s := by
  unfold strobe
  cases decode w with
  | ok i => exact exec_not_idle i h
  | error e => exact execIllegal_not_idle w h

theorem pulse_not_idle {s : State} (w : Byte) (h : s.phase ≠ .idle) : pulse w s = .next s := by
  unfold pulse
  cases decode w with
  | ok i => exact congrArg Host.Outcome.next (if_neg h)
  | error e => exact execIllegal_not_idle w h

/-- Every strobe and every pulse answers a next state. -/
theorem strobe_answers_next (w : Byte) (s : State) : ∃ t, strobe w s = .next t := by
  unfold strobe
  cases decode w with
  | ok i => exact exec_answers_next i s
  | error e => unfold execIllegal; split_ifs <;> exact ⟨_, rfl⟩

theorem pulse_answers_next (w : Byte) (s : State) : ∃ t, pulse w s = .next t := by
  unfold pulse
  cases decode w with
  | ok i => exact ⟨_, rfl⟩
  | error e => unfold execIllegal; split_ifs <;> exact ⟨_, rfl⟩

/-- Inside the ranges of R12 a beat answers a next state. -/
theorem beat_inRange {s : State} (h : s.inRange = true) : beat s = .next (beatBody s) := if_pos h

/-- A run goes on from the state a step answers. -/
theorem run_next {s t : State} (h : step s = .next t) (n : Nat) : core.run (n + 1) s = core.run n t := by
  have e := Host.Core.run.eq_2 core s n
  have h : core.step s = .next t := h
  rw [h] at e
  exact e

end Sys2Proof.Machine
end

