-- ==== Sys2Proof/Laws/Exec.lean ====
section
/-!
SUPPORT. What each command answers in an idle block, outcome by outcome, as the primitives it is made of; and what reading
a buffer gives after the writes of a primitive.
-/

namespace Sys2Proof.Machine

/-! ## The stand-alone primitives -/

theorem execLoad_long {s : State} (hi : s.phase = .idle) (hl : 4096 ≤ s.input.length) :
    exec .load s = .next (loadFull (loadEnter (s.accept 0x01))).complete := by
  show command _ _ _ = _
  rw [command_idle hi, load_long (by exact hl), State.andThen_run _ (by rfl)]; rfl

theorem execLoad_short {s : State} (hi : s.phase = .idle) (hl : s.input.length < 4096) :
    exec .load s = .next (loadShort (loadEnter (s.accept 0x01))) := by
  show command _ _ _ = _
  rw [command_idle hi, load_short (by exact hl), State.andThen_stop _ (by simp)]; rfl

theorem execUnpack_ok {s : State} (hi : s.phase = .idle) (hv : s.rawV = true) :
    exec .unpack s = .next (unpackBody (unpackStart ((s.accept 0x02).enterStage .unpack))).complete := by
  show command _ _ _ = _
  rw [command_idle hi, unpack_ok (by rfl) (by exact hv), State.andThen_run _ (by rfl)]; rfl

theorem execUnpack_invalid {s : State} (hi : s.phase = .idle) (hv : s.rawV = false) :
    exec .unpack s = .next (((s.accept 0x02).enterStage .unpack).raise .operandNotValid 0x0002) := by
  show command _ _ _ = _
  rw [command_idle hi, unpack_invalid (by exact hv), State.andThen_raise]; rfl

theorem execUpscale_ok {s : State} (hi : s.phase = .idle) (hv : s.unpV = true) :
    exec .upscale s = .next (upscaleBody (upscaleStart ((s.accept 0x03).enterStage .upscale))).complete := by
  show command _ _ _ = _
  rw [command_idle hi, upscale_ok (by rfl) (by exact hv), State.andThen_run _ (by rfl)]; rfl

theorem execUpscale_invalid {s : State} (hi : s.phase = .idle) (hv : s.unpV = false) :
    exec .upscale s = .next (((s.accept 0x03).enterStage .upscale).raise .operandNotValid 0x0003) := by
  show command _ _ _ = _
  rw [command_idle hi, upscale_invalid (by exact hv), State.andThen_raise]; rfl

theorem execEmitBmpR_ok {s : State} (hi : s.phase = .idle) (hv : s.rawV = true) (hs : s.sinkOk = true) :
    exec .emitBmpR s = .next (emitBmpRBody (emitRowsStart ((s.accept 0x04).enterStage .emitBmp))).complete := by
  show command _ _ _ = _
  rw [command_idle hi, emitBmpR_ok (by rfl) (by exact hv) (by exact hs), State.andThen_run _ (by rfl)]; rfl

theorem execEmitBmpR_invalid {s : State} (hi : s.phase = .idle) (hv : s.rawV = false) :
    exec .emitBmpR s = .next (((s.accept 0x04).enterStage .emitBmp).raise .operandNotValid 0x0004) := by
  show command _ _ _ = _
  rw [command_idle hi, emitBmpR_invalid (by exact hv), State.andThen_raise]; rfl

theorem execEmitBmpR_refused {s : State} (hi : s.phase = .idle) (hv : s.rawV = true) (hs : s.sinkOk = false) :
    exec .emitBmpR s = .next (((s.accept 0x04).enterStage .emitBmp).raise .destinationWriteError 0) := by
  show command _ _ _ = _
  rw [command_idle hi, emitBmpR_refused (by rfl) (by exact hv) (by exact hs), State.andThen_raise]; rfl

theorem execEmitBmpS_ok {s : State} (hi : s.phase = .idle) (hv : s.sclV = true) (hs : s.sinkOk = true) :
    exec .emitBmpS s = .next (emitBmpSBody (emitFlatStart ((s.accept 0x0C).enterStage .emitBmp))).complete := by
  show command _ _ _ = _
  rw [command_idle hi, emitBmpS_ok (by rfl) (by exact hv) (by exact hs), State.andThen_run _ (by rfl)]; rfl

theorem execEmitBmpS_invalid {s : State} (hi : s.phase = .idle) (hv : s.sclV = false) :
    exec .emitBmpS s = .next (((s.accept 0x0C).enterStage .emitBmp).raise .operandNotValid 0x000C) := by
  show command _ _ _ = _
  rw [command_idle hi, emitBmpS_invalid (by exact hv), State.andThen_raise]; rfl

theorem execEmitBmpS_refused {s : State} (hi : s.phase = .idle) (hv : s.sclV = true) (hs : s.sinkOk = false) :
    exec .emitBmpS s = .next (((s.accept 0x0C).enterStage .emitBmp).raise .destinationWriteError 0) := by
  show command _ _ _ = _
  rw [command_idle hi, emitBmpS_refused (by rfl) (by exact hv) (by exact hs), State.andThen_raise]; rfl

theorem execEmitPcx_ok {s : State} (hi : s.phase = .idle) (hv : s.rawV = true) (hs : s.sinkOk = true) :
    exec .emitPcx s = .next (emitPcxBody (emitRowsStart ((s.accept 0x05).enterStage .emitPcx))).complete := by
  show command _ _ _ = _
  rw [command_idle hi, emitPcx_ok (by rfl) (by exact hv) (by exact hs), State.andThen_run _ (by rfl)]; rfl

theorem execEmitPcx_invalid {s : State} (hi : s.phase = .idle) (hv : s.rawV = false) :
    exec .emitPcx s = .next (((s.accept 0x05).enterStage .emitPcx).raise .operandNotValid 0x0005) := by
  show command _ _ _ = _
  rw [command_idle hi, emitPcx_invalid (by exact hv), State.andThen_raise]; rfl

theorem execEmitPcx_refused {s : State} (hi : s.phase = .idle) (hv : s.rawV = true) (hs : s.sinkOk = false) :
    exec .emitPcx s = .next (((s.accept 0x05).enterStage .emitPcx).raise .destinationWriteError 0) := by
  show command _ _ _ = _
  rw [command_idle hi, emitPcx_refused (by rfl) (by exact hv) (by exact hs), State.andThen_raise]; rfl

/-! ## The pipelines -/

/-- A chain whose LOAD comes up short goes no further than that LOAD. -/
theorem command_load_short {s : State} {w : Byte} (hi : s.phase = .idle) (hl : s.input.length < 4096)
    (f : State → State) :
    command w (fun s => (load s).andThen f) s = .next (loadShort (loadEnter (s.accept w))) := by
  have h : (loadShort (loadEnter (s.accept w))).phase ≠ .run := by simp
  rw [command_idle hi, load_short (by exact hl), State.andThen_stop _ h, State.andThen_stop _ h]

/-- A chain whose LOAD completes goes on with the rest of it. -/
theorem command_load_long {s : State} {w : Byte} (hi : s.phase = .idle) (hl : 4096 ≤ s.input.length)
    (f : State → State) :
    command w (fun s => (load s).andThen f) s
      = .next ((f (loadFull (loadEnter (s.accept w)))).andThen State.complete) := by
  rw [command_idle hi, load_long (by exact hl)]
  exact congrArg (fun t : State => Host.Outcome.next (t.andThen State.complete)) (State.andThen_run f (by simp))

theorem execConvBmpR_short {s : State} (hi : s.phase = .idle) (hl : s.input.length < 4096) :
    exec .convBmpR s = .next (loadShort (loadEnter (s.accept 0x14))) := command_load_short hi hl _

theorem execConvPcx_short {s : State} (hi : s.phase = .idle) (hl : s.input.length < 4096) :
    exec .convPcx s = .next (loadShort (loadEnter (s.accept 0x15))) := command_load_short hi hl _

theorem execConvBmpS_short {s : State} (hi : s.phase = .idle) (hl : s.input.length < 4096) :
    exec .convBmpS s = .next (loadShort (loadEnter (s.accept 0x1C))) := by
  have h : (loadShort (loadEnter (s.accept 0x1C))).phase ≠ .run := by simp
  show command _ _ _ = _
  rw [command_idle hi, convBmpS, load_short (by exact hl)]
  simp only [State.andThen_stop _ h, encode_convBmpS]

theorem execConvBmpR_long {s : State} (hi : s.phase = .idle) (hl : 4096 ≤ s.input.length) :
    exec .convBmpR s
      = .next ((emitBmpR (loadFull (loadEnter (s.accept 0x14)))).andThen State.complete) := command_load_long hi hl _

theorem execConvPcx_long {s : State} (hi : s.phase = .idle) (hl : 4096 ≤ s.input.length) :
    exec .convPcx s
      = .next ((emitPcx (loadFull (loadEnter (s.accept 0x15)))).andThen State.complete) := command_load_long hi hl _

/-- The unpacker and the upscaler after a LOAD: both operand gates pass. -/
theorem unpack_upscale {s : State} (hp : s.phase = .run) (hv : s.rawV = true) :
    (unpack s).andThen upscale = upscaleBody (upscaleStart ((unpackBody (unpackStart
      (s.enterStage .unpack))).enterStage .upscale)) := by
  rw [unpack_ok hp hv]
  have hp' : (unpackBody (unpackStart (s.enterStage .unpack))).phase = .run := by simp [hp]
  rw [State.andThen_run _ hp', upscale_ok hp' (by simp)]

/-- The scaled pipeline up to its emission. -/
theorem execConvBmpS_long {s : State} (hi : s.phase = .idle) (hl : 4096 ≤ s.input.length) :
    exec .convBmpS s
      = .next ((emitBmpS (upscaleBody (upscaleStart ((unpackBody (unpackStart
          ((loadFull (loadEnter (s.accept 0x1C))).enterStage .unpack))).enterStage .upscale)))).andThen
          State.complete) := by
  have hp : (loadFull (loadEnter (s.accept 0x1C))).phase = .run := by simp
  have hu := unpack_upscale hp (by simp)
  have h : convBmpS (s.accept 0x1C) = emitBmpS (upscaleBody (upscaleStart ((unpackBody (unpackStart
      ((loadFull (loadEnter (s.accept 0x1C))).enterStage .unpack))).enterStage .upscale))) := by
    rw [convBmpS, load_long (by exact hl), State.andThen_run unpack hp, hu, State.andThen_run _ (by simp)]
  show command _ _ _ = _
  rw [command_idle hi, encode_convBmpS, h]

/-! ## Reading after the writes of a primitive -/

/-- A cell that none of the writes goes to reads as before. -/
theorem State.read_of_not_written {s t : State} {b : Buffer} {ws : List Host.Cell}
    (hm : t.mem b = (s.mem b).writeAll ws) (he : t.drawOf b = s.drawOf b) {a : Nat} (ha : ∀ v, (a, v) ∉ ws) :
    t.read b a = s.read b a := by
  rw [State.read, State.read, hm, he, Memory.cell?_writeAll_of_not_mem _ (by simpa using ha)]

/-- What a pixel of `UNP` reads as after UNPACK's writes. -/
theorem State.read_unpackWrites {s : State} {m : Memory} {rd : Nat → Byte} (hm : s.unp = m.writeAll (unpackWrites rd))
    {r c : Nat} (hr : r < 64) (hc : c < 480) :
    s.read .unp (unpIndex r c) = (rd (rawIndex (63 - r) (c / 8)) >>> (7 - c % 8)) &&& 1 := by
  rw [State.read_of_cell? (v := pixelOf (rd (rawIndex (63 - r) (c / 8))) (c % 8)), pixelOf_eq _ (by omega)]
  rw [State.mem_unp, hm]
  exact cell?_unpackWrites _ _ hr hc

/-- What a byte of `RAW` reads as after LOAD's writes. -/
theorem State.read_frameWrites {s : State} {m : Memory} {ds : List Byte} (hm : s.raw = m.writeAll (frameWrites ds))
    {r b : Nat} {v : Byte} (hb : b < 60) (hv : ds[r * 64 + b]? = some v) : s.read .raw (rawIndex r b) = v := by
  have := cell?_frameWrites m hv (by omega)
  rw [show (r * 64 + b) / 64 = r by omega, show (r * 64 + b) % 64 = b by omega] at this
  exact State.read_of_cell? (by rw [State.mem_raw, hm]; exact this)

end Sys2Proof.Machine
end

