-- ==== Sys2Proof/Laws/Files.lean ====
section
/-!
SUPPORT. The files the encoders emit: their lengths, and the byte at each offset.
-/

namespace Sys2Proof.Machine

/-- A list of equally long rows, read at row `r` and column `b`. -/
theorem flatMap_rows_getElem? {α : Type} (n m : Nat) (row : Nat → List α) (hrow : ∀ r, (row r).length = m)
    {r b : Nat} (hr : r < n) (hb : b < m) : ((List.range n).flatMap row)[r * m + b]? = (row r)[b]? := by
  have hlen : ∀ k : Nat, ((List.range k).flatMap row).length = k * m := by
    intro k
    induction k with
    | zero => simp
    | succ k ih => rw [List.range_succ, List.flatMap_append, List.length_append, ih]; simp [hrow, Nat.succ_mul]
  induction n with
  | zero => omega
  | succ n ih =>
    rw [List.range_succ, List.flatMap_append]
    rcases Nat.lt_or_ge r n with h | h
    · have : r * m + b < n * m := by
        calc r * m + b < r * m + m := by omega
          _ = (r + 1) * m := (Nat.succ_mul r m).symm
          _ ≤ n * m := Nat.mul_le_mul_right m h
      rw [List.getElem?_append_left (by rw [hlen]; exact this), ih h]
    · have : r = n := by omega
      subst this
      rw [List.getElem?_append_right (by rw [hlen]; omega), hlen, Nat.add_sub_cancel_left]
      simp

@[simp] theorem bmpRawPixels_length (rd : Nat → Byte) : (bmpRawPixels rd).length = 3840 := by
  simp [bmpRawPixels, List.length_flatMap]

/-- Pixel byte `r*60 + b` of the raw-mode file: the rows reversed (R58). -/
theorem bmpRawPixels_getElem? (rd : Nat → Byte) {r b : Nat} (hr : r < 64) (hb : b < 60) :
    (bmpRawPixels rd)[r * 60 + b]? = some (rd (rawIndex (63 - r) b)) := by
  rw [bmpRawPixels, flatMap_rows_getElem? 64 60 _ (by simp) hr hb]
  simp [hb]

@[simp] theorem pcxPairs_length (rd : Nat → Byte) : (pcxPairs rd).length = 7680 := by
  simp [pcxPairs, List.length_flatMap]

/-- The pair of packed byte `r*60 + b`: the marker, then the byte (R64). -/
theorem pcxPairs_getElem? (rd : Nat → Byte) {r b : Nat} (hr : r < 64) (hb : b < 60) :
    (pcxPairs rd)[2 * (r * 60 + b)]? = some pcxRun ∧
      (pcxPairs rd)[2 * (r * 60 + b) + 1]? = some (rd (rawIndex r b)) := by
  have h : ∀ j < 2, (pcxPairs rd)[r * 120 + (b * 2 + j)]? = [pcxRun, rd (rawIndex r b)][j]? := fun j hj => by
    rw [pcxPairs, flatMap_rows_getElem? 64 120 _ (by simp [List.length_flatMap]) hr (by omega),
      flatMap_rows_getElem? 60 2 _ (by simp) hb hj]
  have h0 := h 0 (by decide)
  have h1 := h 1 (by decide)
  rw [show r * 120 + (b * 2 + 0) = 2 * (r * 60 + b) by omega] at h0
  rw [show r * 120 + (b * 2 + 1) = 2 * (r * 60 + b) + 1 by omega] at h1
  exact ⟨h0, h1⟩

@[simp] theorem bmpRawFile_length (s : State) : (bmpRawFile s).length = 3986 := by
  simp [bmpRawFile]

@[simp] theorem bmpScaledFile_length (s : State) : (bmpScaledFile s).length = 276626 := by
  simp [bmpScaledFile]

@[simp] theorem pcxFile_length (s : State) : (pcxFile s).length = 7808 := by
  simp [pcxFile]

end Sys2Proof.Machine
end

