-- ==== Sys2Proof/Laws/PerInstr.lean ====
section
/-!
SUPPORT. What holds of every command as syntax, one lemma per constructor.
-/

namespace Sys2Proof.Laws.CommandWord

/-- The fields of a command meet the checks of R35 to R38, and its word carries exactly them. -/
def Statement (i : Instr) : Prop :=
  (fieldsOfInstr i).wellFormed = true ∧ fieldsOf (encode i) = fieldsOfInstr i

theorem load : Statement .load := by unfold Statement; decide
theorem unpack : Statement .unpack := by unfold Statement; decide
theorem upscale : Statement .upscale := by unfold Statement; decide
theorem emitBmpR : Statement .emitBmpR := by unfold Statement; decide
theorem emitBmpS : Statement .emitBmpS := by unfold Statement; decide
theorem emitPcx : Statement .emitPcx := by unfold Statement; decide
theorem convBmpR : Statement .convBmpR := by unfold Statement; decide
theorem convBmpS : Statement .convBmpS := by unfold Statement; decide
theorem convPcx : Statement .convPcx := by unfold Statement; decide

end Sys2Proof.Laws.CommandWord
end

