-- ==== Sys2Proof/Tests/Slice0.lean ====
section
/-!
SUPPORT. Tests of the model: words written out bit by bit, the ill-formed term each check refuses, a few single steps with
the results of spec/95_test_vectors.md (V and P numbers), and, for every statement that has hypotheses, a state and
operands that meet them, at the ends of their ranges where they have clauses.
-/

namespace Sys2Proof.Tests

open Sys2Proof.Machine Sys2Proof.Safety

/-! ## Well-formedness: what each check refuses -/

/-- A legal set of fields, from which each ill-formed one differs in one place. -/
def goodFields : CommandFields := { z := 0, c := false, s := false, op := 1 }

theorem test_good_fields_are_well_formed : goodFields.wellFormed = true := by decide
theorem test_nonzero_z_is_refused : { goodFields with z := 1 }.zOk = false := by decide
theorem test_operation_zero_is_refused : { goodFields with op := 0 }.opOk = false := by decide
theorem test_operation_six_is_refused : { goodFields with op := 6 }.opOk = false := by decide
theorem test_scaled_load_is_refused : { goodFields with s := true }.scaleOk = false := by decide
theorem test_chained_upscale_is_refused : { goodFields with c := true, op := 3 }.chainOk = false := by decide

/-- The default parameters with one byte of the PCX header changed. -/
def withPcxByte (o : Fin 128) (v : Byte) : Params := { defaultParams with pcxHdr := defaultPcxHdr.set o.val v }

theorem test_pcx_depth_is_checked : (withPcxByte 3 2).pcxDepthOk = false := by decide
theorem test_pcx_run_length_is_checked : (withPcxByte 2 0).pcxDepthOk = false := by decide
theorem test_pcx_bounds_are_checked : (withPcxByte 8 0xE0).pcxBoundsOk = false := by decide
theorem test_pcx_planes_are_checked : (withPcxByte 65 3).pcxPlanesOk = false := by decide
theorem test_pcx_palette_is_checked : (withPcxByte 19 0x01).pcxPaletteOk = false := by decide

/-! ## Decoding: every row of R37's map bit by bit (Z C S OP), and V10's illegal samples -/

theorem test_decode_load : decode 0b00000001 = .ok .load := by decide
theorem test_decode_unpack : decode 0b00000010 = .ok .unpack := by decide
theorem test_decode_upscale : decode 0b00000011 = .ok .upscale := by decide
theorem test_decode_emitBmpR : decode 0b00000100 = .ok .emitBmpR := by decide
theorem test_decode_emitBmpS : decode 0b00001100 = .ok .emitBmpS := by decide
theorem test_decode_emitPcx : decode 0b00000101 = .ok .emitPcx := by decide
theorem test_decode_convBmpR : decode 0b00010100 = .ok .convBmpR := by decide
theorem test_decode_convBmpS : decode 0b00011100 = .ok .convBmpS := by decide
theorem test_decode_convPcx : decode 0b00010101 = .ok .convPcx := by decide

theorem test_illegal_samples :
    decode 0x00 = .error .opUnused ∧ decode 0x06 = .error .opUnused ∧ decode 0x07 = .error .opUnused ∧
    decode 0x09 = .error .scaleNotAllowed ∧ decode 0x0A = .error .scaleNotAllowed ∧
    decode 0x0B = .error .scaleNotAllowed ∧ decode 0x0D = .error .scaleNotAllowed ∧
    decode 0x11 = .error .chainNotAllowed ∧ decode 0x12 = .error .chainNotAllowed ∧
    decode 0x13 = .error .chainNotAllowed ∧ decode 0x1D = .error .scaleNotAllowed ∧
    decode 0x21 = .error .zNotZero ∧ decode 0x81 = .error .zNotZero ∧ decode 0xFF = .error .zNotZero := by decide

/-! ## States -/

/-- The state an outcome answers; `s` where it answers none. -/
def after (s : State) : Host.Outcome State Fault Refusal → State
  | .next t => t
  | _ => s

/-- The first `n` bytes of `PAT` (95_test_vectors.md): byte `k` is `37*k + 11` modulo 256. -/
def patTo (n : Nat) : List Byte := (List.range n).map fun k => BitVec.ofNat 8 (37 * k + 11)

theorem patTo_length (n : Nat) : (patTo n).length = n := by rw [patTo, List.length_map, List.length_range]

theorem patTo_getElem? {n k : Nat} (h : k < n) : (patTo n)[k]? = some (BitVec.ofNat 8 (37 * k + 11)) := by
  rw [patTo, List.getElem?_map, List.getElem?_range h, Option.map_some]

/-- `PAT`. -/
@[irreducible] def pat : List Byte := patTo 4096

theorem pat_length : pat.length = 4096 := by unfold pat; exact patTo_length 4096

theorem pat_getElem? {k : Nat} (h : k < 4096) : pat[k]? = some (BitVec.ofNat 8 (37 * k + 11)) := by
  unfold pat; exact patTo_getElem? h

/-- An idle block with a frame on its input. -/
def offered : State := { State.reset with input := pat }

/-- An idle block with `RAW` valid; the cells of V15 and V24 hold bytes. -/
def loaded : State := { State.reset with rawV := true, raw := [(0, 0x0B), (59, 0x92), (3780, 0xA5), (3839, 0x52)] }

/-- An idle block with `UNP` valid; pixel 0 is set and pixel (1, 0) is clear (V19). -/
def unpacked : State := { loaded with unpV := true, unp := [(0, 0x01), (480, 0x00)] }

/-- An idle block with all three flags set. -/
def upscaled : State := { unpacked with sclV := true }

/-- A running LOAD before its first byte. -/
def loading : State := { State.reset with phase := .run, cmdreg := 0x01, stage := .load, input := [7, 8] }

/-- A running LOAD before its last byte. -/
def loadingLast : State := { loading with incnt := 4095, row := 63, col := 63 }

/-- A running EMITPCX before its first byte. -/
def emitting : State := { loaded with phase := .run, cmdreg := 0x05, stage := .emitPcx }

/-- A running EMITPCX before its last byte. -/
def emittingLast : State := { emitting with outcnt := 7807, row := 63, col := 59 }

/-- A latched IllegalCommand (V29). -/
def faulted : State := { State.reset with phase := .fault, err := 3 }

/-! ## Single steps with the spec's results -/

/-- V12, rows 0 and 60. -/
theorem test_load_short : (after offered (exec .load State.reset)).err = 1 ∧
    (after offered (exec .load { State.reset with input := List.replicate 60 0xFF })).errinfo = 0x003C := by decide

/-- V11. -/
theorem test_load_pat : ∃ t, exec .load offered = .next t ∧ t.read .raw (rawIndex 1 0) = 0x4B ∧
    t.read .raw (rawIndex 63 59) = 0x52 ∧ t.status = 0x0A := by
  have h : 4096 ≤ offered.input.length := pat_length.ge
  have hr : ∀ k, k < 4096 → (offered.input.take 4096)[k]? = some (BitVec.ofNat 8 (37 * k + 11)) := fun k hk => by
    rw [List.getElem?_take_of_lt hk]; exact pat_getElem? hk
  refine ⟨_, execLoad_long rfl h, ?_, ?_, rfl⟩
  · exact State.read_frameWrites (m := offered.raw) (ds := offered.input.take 4096) (by simp [loadFull, loadEnter])
      (by decide) (hr 64 (by decide))
  · exact State.read_frameWrites (m := offered.raw) (ds := offered.input.take 4096) (by simp [loadFull, loadEnter])
      (by decide) (hr 4091 (by decide))

/-- V18. -/
theorem test_unpack_invalid : (after offered (exec .unpack State.reset)).errinfo = 0x0002 ∧
    (after offered (exec .unpack State.reset)).status = 0x04 := by decide

/-- V15: the byte of the last stored row opens the first grid row, most significant bit first. -/
theorem test_unpack_a5 : ∃ t, exec .unpack loaded = .next t ∧
    (List.range 8).map (fun c => t.read .unp (unpIndex 0 c)) = [1, 0, 1, 0, 0, 1, 0, 1] := by
  refine ⟨_, execUnpack_ok rfl rfl, ?_⟩
  have h : ∀ c < 8, (unpackBody (unpackStart ((loaded.accept 0x02).enterStage .unpack))).complete.read .unp (unpIndex 0 c)
      = (loaded.read .raw (rawIndex (63 - 0) (c / 8)) >>> (7 - c % 8)) &&& 1 := fun c hc =>
    State.read_unpackWrites (m := loaded.unp) (by rw [State.complete_unp, unpackBody_unp]; rfl) (by decide) (by omega)
  rw [List.map_congr_left fun c hc => h c (by simpa using hc)]
  decide

/-- V23. -/
theorem test_upscale_invalid : (after offered (exec .upscale loaded)).errinfo = 0x0003 ∧
    (after offered (exec .upscale loaded)).status = 0x0C ∧ (after offered (exec .upscale loaded)).scl = [] := by decide

/-- V19: flat 1439 belongs to pixel (0, 0), flat 4319 to pixel (1, 0), and the last cell stays clear. -/
theorem test_upscale_corner : ∃ t, exec .upscale unpacked = .next t ∧
    t.read .scl 1439 = 0x01 ∧ t.read .scl 4319 = 0x00 ∧ t.read .scl 276479 = 0x00 := by
  refine ⟨_, execUpscale_ok rfl rfl, ?_, ?_, ?_⟩ <;> apply State.read_of_cell? <;>
    rw [State.mem_scl, State.complete_scl, upscaleBody_scl]
  · exact cell?_spreadAll _ _ (by decide)
  · exact cell?_spreadAll _ _ (by decide)
  · rw [cell?_spreadAll_last, upscaleStart_scl]
    exact cell?_clearWrites _ (by decide)

/-- V19 to V21: the targets of four source pixels, whatever `START` held on entering a row. -/
theorem test_spread_targets :
    (spreadWrites (nextStart 0 77) 1).map Prod.fst = [0, 1, 1439, 1440, 1441, 2879, 2880, 2881] ∧
    (spreadWrites (nextStart 479 2874) 1).map Prod.fst = [1436, 1437, 1438, 2876, 2877, 2878, 4316, 4317, 4318] ∧
    (spreadWrites (nextStart 480 77) 1).map Prod.fst = [4319, 4320, 4321, 5759, 5760, 5761, 7199, 7200, 7201] ∧
    (spreadWrites (nextStart 30719 275034) 1).map Prod.fst
      = [273596, 273597, 273598, 275036, 275037, 275038, 276476, 276477, 276478] := by decide

/-- R51, both ends: -1 and 276480 are skipped, 0 and 276479 are written. -/
theorem test_clip_ends : clip (-1) 1 = none ∧ clip 0 1 = some (0, 1) ∧ clip 276479 1 = some (276479, 1) ∧
    clip 276480 1 = none := by decide

/-- V7. -/
theorem test_raw_header : (bmpHeader defaultParams false).take 54 =
    [0x42, 0x4D, 0x92, 0x10, 0, 0, 0, 0, 0, 0, 0x92, 0, 0, 0, 0x7C, 0, 0, 0, 0xE0, 0x01, 0, 0, 0x40, 0, 0, 0, 0x01, 0,
     0x01, 0, 0, 0, 0, 0, 0, 0x10, 0, 0, 0x13, 0x0B, 0, 0, 0x13, 0x0B, 0, 0, 0x02, 0, 0, 0, 0, 0, 0, 0] := by decide +kernel

/-- V8. -/
theorem test_scaled_header : (bmpHeader defaultParams true).take 54 =
    [0x42, 0x4D, 0x92, 0x38, 0x04, 0, 0, 0, 0, 0, 0x92, 0, 0, 0, 0x7C, 0, 0, 0, 0xA0, 0x05, 0, 0, 0xC0, 0, 0, 0, 0x01, 0,
     0x08, 0, 0, 0, 0, 0, 0, 0x38, 0x04, 0, 0x38, 0x21, 0, 0, 0x38, 0x21, 0, 0, 0x02, 0, 0, 0, 0, 0, 0, 0] := by decide +kernel

/-- V24: the first pixel byte is `RAW[63][0]`, the last `RAW[0][59]`, marked. -/
theorem test_emitBmpR_pixels : ∃ t, exec .emitBmpR loaded = .next t ∧
    t.output[146]? = some (0xA5, false) ∧ t.output[3985]? = some (0x92, true) ∧ t.status = 0x0A := by
  refine ⟨_, execEmitBmpR_ok rfl rfl rfl, ?_, ?_, rfl⟩
  · show (markLast (bmpRawFile loaded))[146]? = _
    rw [markLast_getElem?, bmpRawFile_length, bmpRawFile, List.getElem?_append_right (by simp), bmpHeader_length,
      show 146 - 146 = 0 * 60 + 0 from rfl, bmpRawPixels_getElem? _ (by decide) (by decide)]
    decide
  · show (markLast (bmpRawFile loaded))[3985]? = _
    rw [markLast_getElem?, bmpRawFile_length, bmpRawFile, List.getElem?_append_right (by simp), bmpHeader_length,
      show 3985 - 146 = 63 * 60 + 59 from rfl, bmpRawPixels_getElem? _ (by decide) (by decide)]
    decide

/-- V26: the operand test comes before the sink is sampled. -/
theorem test_emitBmpR_faults :
    (after offered (exec .emitBmpR { State.reset with sinkOk := false })).errinfo = 0x0004 ∧
    (after offered (exec .emitBmpR { loaded with sinkOk := false })).err = 2 ∧
    (after offered (exec .emitBmpR { loaded with sinkOk := false })).status = 0x0C := by decide

/-- V26. -/
theorem test_emitBmpS_faults : (after offered (exec .emitBmpS State.reset)).errinfo = 0x000C ∧
    (after offered (exec .emitBmpS loaded)).err = 4 ∧
    (after offered (exec .emitBmpS { upscaled with sinkOk := false })).errinfo = 0x0000 := by decide

/-- V25: the last byte is the last cell, marked. -/
theorem test_emitBmpS_last : ∃ t, exec .emitBmpS { upscaled with scl := [(276479, 0x00)] } = .next t ∧
    t.output[276625]? = some (0x00, true) ∧ t.status = 0x3A := by
  refine ⟨_, execEmitBmpS_ok rfl rfl rfl, ?_, rfl⟩
  show (markLast (bmpScaledFile { upscaled with scl := [(276479, 0x00)] }))[276625]? = _
  rw [markLast_getElem?, bmpScaledFile_length, bmpScaledFile, List.getElem?_append_right (by simp), bmpHeader_length,
    State.readFlat_getElem? _ _ (by decide)]
  decide

/-- V28. -/
theorem test_emitPcx_faults : (after offered (exec .emitPcx State.reset)).errinfo = 0x0005 ∧
    (after offered (exec .emitPcx { loaded with sinkOk := false })).err = 2 := by decide

/-- V27: the pairs follow the source order, and only the last byte is marked. -/
theorem test_emitPcx_pairs : ∃ t, exec .emitPcx loaded = .next t ∧
    t.output[128]? = some (0xC1, false) ∧ t.output[129]? = some (0x0B, false) ∧ t.output[7807]? = some (0x52, true) := by
  have h0 := pcxPairs_getElem? (loaded.read .raw) (r := 0) (b := 0) (by decide) (by decide)
  have h1 := pcxPairs_getElem? (loaded.read .raw) (r := 63) (b := 59) (by decide) (by decide)
  refine ⟨_, execEmitPcx_ok rfl rfl rfl, ?_, ?_, ?_⟩
  · show (markLast (pcxFile loaded))[128]? = _
    rw [markLast_getElem?, pcxFile_length, pcxFile, List.getElem?_append_right (by simp), Vector.length_toList]
    exact congrArg (Option.map _) h0.1
  · show (markLast (pcxFile loaded))[129]? = _
    rw [markLast_getElem?, pcxFile_length, pcxFile, List.getElem?_append_right (by simp), Vector.length_toList]
    exact congrArg (Option.map _) h0.2
  · show (markLast (pcxFile loaded))[7807]? = _
    rw [markLast_getElem?, pcxFile_length, pcxFile, List.getElem?_append_right (by simp), Vector.length_toList]
    exact congrArg (Option.map _) h1.2

/-- P4, with ten bytes in place of four thousand: a chain faults in its LOAD. -/
theorem test_convBmpS_short :
    let t := after offered (exec .convBmpS { State.reset with input := List.replicate 10 0 })
    t.stage = .load ∧ t.err = 1 ∧ t.errinfo = 0x000A ∧ t.status = 0x04 ∧ t.output = [] := by decide

/-- V3: an empty source. -/
theorem test_convBmpR_missing_source :
    let t := after offered (exec .convBmpR { State.reset with sinkOk := false })
    t.err = 1 ∧ t.errinfo = 0x0000 ∧ t.irq = true := by decide

/-- P7: the sink refuses after the frame has been loaded. -/
theorem test_convPcx_refused : ∃ t,
    exec .convPcx { offered with input := pat ++ List.replicate 10 0, sinkOk := false } = .next t ∧
    t.err = 2 ∧ t.status = 0x0C ∧ t.stage = .emitPcx ∧ t.input.length = 10 ∧ t.output = [] := by
  have hl : 4096 ≤ (pat ++ List.replicate 10 (0 : Byte)).length := by simp [pat_length]
  refine ⟨_, execConvPcx_long rfl hl, ?_⟩
  rw [emitPcx_refused (by rfl) (by rfl) (by rfl), State.andThen_raise]
  exact ⟨rfl, rfl, rfl, by simp [loadFull, loadEnter, State.raise, pat_length], rfl⟩

/-- V29: a strobe during a LOAD, and one on a latched fault, change nothing. -/
theorem test_strobe_ignored : pulse 0xFF loading = .next loading ∧ strobe 0x01 faulted = .next faulted := ⟨rfl, rfl⟩

/-- V30: reset in the middle of a LOAD. -/
theorem test_reset_mid_command :
    let t := after offered (step { loading with host := [.rst] })
    t.phase = .idle ∧ t.status = 0x00 ∧ t.irq = false ∧ t.cmdreg = 0x00 ∧ t.input = [7, 8] := by decide

/-- V31: `IRQ` is down while a command runs and up after it. -/
theorem test_irq : loading.irq = false ∧ (after loading (step loadingLast)).irq = true := by decide

/-- The word of a command, placed where the next step takes it, runs as that command. -/
theorem test_fetch_word : step (State.reset.withFetchWord 8 0x02) = exec .unpack State.reset := rfl

/-! ## Witnesses: what the hypotheses of the statements are met by -/

/-- An idle block with `RAW` written from the frame `d`. -/
def rawWritten (d : List Byte) : State :=
  { State.reset with rawV := true, raw := Memory.writeAll [] (frameWrites d) }

/-- A block on which LOAD, UNPACK and UPSCALE have run their loops: all three flags set, all cells written. -/
def written (d : List Byte) : State := upscaleBody (upscaleStart (unpackBody (rawWritten d)))

theorem written_phase (d : List Byte) : (written d).phase = .idle := by
  rw [written, upscaleBody_phase, upscaleStart_phase, unpackBody_phase]; rfl

theorem written_flags (d : List Byte) : (written d).rawV = true ∧ (written d).unpV = true ∧ (written d).sclV = true := by
  rw [written, upscaleBody_rawV, upscaleStart_rawV, unpackBody_rawV, upscaleBody_unpV, upscaleStart_unpV,
    unpackBody_unpV, upscaleBody_sclV]
  exact ⟨rfl, rfl, rfl⟩

theorem written_raw (d : List Byte) : (written d).raw = Memory.writeAll [] (frameWrites d) := by
  rw [written, upscaleBody_raw, upscaleStart_raw, unpackBody_raw, rawWritten]

theorem written_unp (d : List Byte) :
    (written d).unp = Memory.writeAll (rawWritten d).unp (unpackWrites ((written d).read .raw)) := by
  have hr : (written d).read .raw = (rawWritten d).read .raw :=
    funext fun a => State.read_congr (b := .raw) (by simp [written]) (by simp [written]) a
  rw [hr, written, upscaleBody_unp, upscaleStart_unp, unpackBody_unp]

theorem written_scl (d : List Byte) :
    (written d).scl = ((rawWritten d).scl.writeAll clearWrites).writeAll (spreadAll (written d)).2 := by
  have h : (spreadAll (upscaleStart (unpackBody (rawWritten d)))).2 = (spreadAll (written d)).2 :=
    spreadAll_congr (by rw [written, upscaleBody_unp]) (by rw [written, upscaleBody_epoch])
  rw [← h, written, upscaleBody_scl, upscaleStart_scl, unpackBody_scl]

theorem written_truthful {d : List Byte} (hd : d.length = 4096) : Truthful (written d) where
  raw := fun _ a h => by
    have hk : d[a / 60 * 64 + a % 60]? = some d[a / 60 * 64 + a % 60] := List.getElem?_eq_getElem (by omega)
    have := cell?_frameWrites [] hk (by omega)
    rw [show rawIndex ((a / 60 * 64 + a % 60) / 64) ((a / 60 * 64 + a % 60) % 64) = a by unfold rawIndex; omega] at this
    rw [written_raw, this, Option.isSome_some]
  unp := fun _ a h => by
    have := cell?_unpackWrites (rawWritten d).unp ((written d).read .raw) (r := a / 480) (c := a % 480) (by omega)
      (by omega)
    rw [show unpIndex (a / 480) (a % 480) = a by unfold unpIndex; omega, pixelOf_eq _ (by omega)] at this
    rw [written_unp, this, unpackedCell, State.bitGrid]
  scl := fun _ e h => by
    rw [written_scl]
    by_cases he : e < 276479
    · rw [cell?_spreadAll _ _ he, spreadCell, if_pos ⟨he, (exists_target he).1⟩]
    · rw [show e = 276479 by omega, cell?_spreadAll_last, cell?_clearWrites _ (by decide), spreadCell,
        if_neg (fun h => absurd h.1 (Nat.lt_irrefl _))]
  run := fun h => by rw [written_phase] at h; cases h

theorem written_safe {d : List Byte} (hd : d.length = 4096) : Safe (written d) where
  rawWf := by rw [written_raw]; exact Memory.wf_writeAll (by decide) (frameWrites_lt hd.le)
  unpWf := by rw [written_unp]; exact Memory.wf_writeAll (by simp [rawWritten, State.reset, Memory.wf]) (unpackWrites_lt _)
  sclWf := by
    rw [written_scl]
    exact Memory.wf_writeAll (Memory.wf_writeAll (by simp [rawWritten, State.reset, Memory.wf]) clearWrites_lt) (spreadAll_lt _)
  unpRaw := fun _ => (written_flags d).1
  sclUnp := fun _ => (written_flags d).2.1
  doneIdle := fun _ => written_phase d
  idle := fun _ => by
    rw [written, upscaleBody_stage, upscaleStart_stage, unpackBody_stage, upscaleBody_err, upscaleStart_err,
      unpackBody_err, upscaleBody_errinfo, upscaleStart_errinfo, unpackBody_errinfo]
    exact ⟨rfl, rfl, rfl⟩
  run := fun h => by rw [written_phase] at h; cases h
  fault := fun h => by rw [written_phase] at h; cases h

theorem written_step (d : List Byte) : step (written d) = .next (written d) := by
  have hr : (written d).resetSeen = true := by
    rw [written, upscaleBody_resetSeen, upscaleStart_resetSeen, unpackBody_resetSeen]; rfl
  have hh : (written d).host = [] := by
    rw [written, upscaleBody_host, upscaleStart_host, unpackBody_host]; rfl
  rw [step_nil hr hh, quiet_not_run (by rw [written_phase]; decide)]

theorem loading_safe : Safe loading where
  rawWf := by decide
  unpWf := by decide
  sclWf := by decide
  unpRaw := by decide
  sclUnp := by decide
  doneIdle := by decide
  idle := by decide
  run := fun _ => ⟨rfl, rfl, rfl, rfl, rfl, rfl⟩
  fault := by decide

theorem emitting_safe : Safe emitting where
  rawWf := by decide
  unpWf := by decide
  sclWf := by decide
  unpRaw := by decide
  sclUnp := by decide
  doneIdle := by decide
  idle := by decide
  run := fun _ => ⟨rfl, rfl, rfl, by decide, .inl ⟨by decide, rfl, rfl⟩⟩
  fault := by decide

theorem emittingLast_safe : Safe emittingLast where
  rawWf := by decide
  unpWf := by decide
  sclWf := by decide
  unpRaw := by decide
  sclUnp := by decide
  doneIdle := by decide
  idle := by decide
  run := fun _ => ⟨rfl, rfl, rfl, by decide, .inr (.inr rfl)⟩
  fault := by decide

theorem loading_truthful : Truthful loading where
  raw := by decide
  unp := by decide
  scl := by decide
  run := fun _ k hk => absurd hk (Nat.not_lt_zero k)

theorem test_witness_DecodeInvertsEncode : decode 0x1C = .ok .convBmpS := by decide

theorem test_witness_IllegalWordsFaultByClass :
    decode 0x0D = .error .scaleNotAllowed ∧ State.reset.phase = .idle ∧ loading.phase ≠ .idle := by decide

theorem test_witness_StepRunsTheIssuedCommand :
    let s := { State.reset with host := [.issue 0x1C, .rst] }
    s.resetSeen = true ∧ s.phase ≠ .run ∧ s.host = .issue 0x1C :: [.rst] ∧ decode 0x1C = .ok .convBmpS := by decide

theorem test_witness_StepFollowsTheHost :
    (State.reset.resetSeen = true ∧ State.reset.host = [] ∧ State.reset.phase ≠ .run) ∧
    (loading.resetSeen = true ∧ loading.host = [] ∧ loading.phase = .run) ∧
    { loading with host := [.issue 0x02] }.host = .issue 0x02 :: [] ∧
    { loading with host := [.tick] }.host = .tick :: [] ∧
    { State.reset with host := [.tick] }.host = .tick :: [] ∧
    { loading with stage := .upscale, host := [.stall] }.waitsOnHost = false ∧
    { loading with stage := .upscale, host := [.stall] }.host = .stall :: [] ∧
    { State.reset with host := [.sink false] }.host = .sink false :: [] ∧
    { State.reset with host := [.stall] }.host = .stall :: [] ∧
    { State.reset with host := [.issue 0x0D] }.host = .issue 0x0D :: [] ∧ decode 0x0D = .error .scaleNotAllowed ∧
    { State.reset with host := [.pulse 0x01] }.host = .pulse 0x01 :: [] ∧ decode 0x01 = .ok .load ∧
    { State.reset with host := [.pulse 0xFF] }.host = .pulse 0xFF :: [] ∧ decode 0xFF = .error .zNotZero ∧
    State.reset.phase = .idle := by decide

theorem test_witness_StrobeWhileNotIdleIsIgnored :
    let s := { faulted with host := [.pulse 0x01] }
    s.resetSeen = true ∧ s.phase ≠ .idle ∧ s.host = .pulse 0x01 :: [] := by decide

theorem test_witness_StalledCommandWaits :
    let s := { loading with host := [.stall, .stall, .stall, .tick] }
    s.resetSeen = true ∧ s.phase = .run ∧ s.waitsOnHost = true ∧ s.host = List.replicate 3 .stall ++ [.tick] := by decide

theorem test_witness_NothingRunsBeforeTheFirstReset :
    let s := { State.reset with resetSeen := false, host := [.issue 0x01] }
    s.resetSeen = false ∧ ∀ rest, s.host ≠ .rst :: rest := ⟨rfl, fun _ h => by cases h⟩

theorem test_witness_ResetFromAnyState : { loadingLast with host := [.rst, .tick] }.host = .rst :: [.tick] := rfl

theorem test_witness_AtMostOneOfBusyDoneFault : Safe loading ∧ Safe (written pat) :=
  ⟨loading_safe, written_safe pat_length⟩

theorem test_witness_IrqFollowsDoneAndFault :
    State.reset.phase = .idle ∧ Safe loading ∧ loading.phase = .run := ⟨rfl, loading_safe, rfl⟩

theorem test_witness_InvalidOperandFaultsFirst :
    State.reset.phase = .idle ∧ State.reset.valid .raw = false ∧ State.reset.valid .unp = false ∧
    State.reset.valid .scl = false := by decide

theorem test_witness_RefusingSinkFaults :
    let s := { upscaled with sinkOk := false }
    s.phase = .idle ∧ s.valid .raw = true ∧ s.valid .scl = true ∧ s.sinkOk = false := by decide

theorem test_witness_ShortSourceFaults : State.reset.phase = .idle ∧ State.reset.input.length < 4096 ∧
    { State.reset with input := List.replicate 4095 0 }.input.length < 4096 :=
  ⟨rfl, by decide, by rw [List.length_replicate]; decide⟩

theorem test_witness_FaultIsSticky :
    let s := { faulted with host := [.issue 0x01] }
    s.resetSeen = true ∧ s.phase = .fault ∧ ∀ rest, s.host ≠ .rst :: rest := ⟨rfl, rfl, fun _ h => by cases h⟩

theorem test_witness_OnlyResetLeavesFault : ∃ t, faulted.phase = .fault ∧
    step { faulted with host := [.rst] } = .next t ∧ t.phase ≠ .fault := ⟨_, rfl, rfl, by decide⟩

theorem test_witness_LoadStoresTheFrame : offered.phase = .idle ∧ 4096 ≤ offered.input.length :=
  ⟨rfl, pat_length.ge⟩

theorem test_witness_LoadIgnoresPadding : ∃ d d' : List Byte, d.length = 4096 ∧ d'.length = 4096 ∧ d[60]? ≠ d'[60]? ∧
    ∀ k < 4096, k % 64 < 60 → d[k]? = d'[k]? := by
  refine ⟨List.replicate 4096 0, (List.range 4096).map fun k => if k % 64 < 60 then 0 else 0xFF,
    List.length_replicate .., by rw [List.length_map, List.length_range], ?_, fun k hk h => ?_⟩
  · rw [List.getElem?_replicate, List.getElem?_map, List.getElem?_range (by decide)]
    decide
  · rw [List.getElem?_replicate, List.getElem?_map, List.getElem?_range hk, if_pos hk, Option.map_some, if_pos h]

theorem test_witness_LoadGivesTheBitGrid :
    offered.phase = .idle ∧ offered.input = pat ++ [] ∧ pat.length = 4096 :=
  ⟨rfl, (List.append_nil pat).symm, pat_length⟩

theorem test_witness_LoadThenUnpackRoundTrip : ∃ rest : List Byte, rest ≠ [] ∧
    { offered with input := pat ++ rest }.phase = .idle ∧ pat.length = 4096 := ⟨[0xEE], by decide, rfl, pat_length⟩

theorem test_witness_LoadFrame : (∃ t, exec .load State.reset = .next t) ∧ (∃ t, exec .load offered = .next t) ∧
    State.reset.input.length < 4096 ∧ 4096 ≤ offered.input.length :=
  ⟨exec_answers_next _ _, exec_answers_next _ _, by decide, pat_length.ge⟩

theorem test_witness_UnpackFlipsAndExpands : loaded.phase = .idle ∧ loaded.rawV = true := by decide

theorem test_witness_UnpackIsPureAndInvertible :
    let s' := { unpacked with idx := 7, cmdreg := 0x01 }
    s'.phase = .idle ∧ s'.rawV = true ∧ (∀ a, loaded.read .raw a = s'.read .raw a) ∧
    (∃ t, exec .unpack loaded = .next t ∧ ∃ u, exec .unpack t = .next u) ∧ ∃ t', exec .unpack s' = .next t' :=
  ⟨rfl, rfl, fun _ => rfl, (exec_answers_next _ _).imp fun _ h => ⟨h, exec_answers_next _ _⟩, exec_answers_next _ _⟩

theorem test_witness_UnpackFrame : ∃ t, exec .unpack loaded = .next t := exec_answers_next _ _

theorem test_witness_AnchorAndTargetRanges : (0 < 30720 ∧ (-1441 : Int) ∈ delta) ∧ 30719 < 30720 ∧ (1441 : Int) ∈ delta := by
  decide

theorem test_witness_UpscaleClosedForm : unpacked.phase = .idle ∧ unpacked.unpV = true := by decide

/-- The first target of the first pixel, the last of the last, and a permuted list of writes. -/
theorem test_witness_SpreadWritesEachCellOnce :
    (∃ t, exec .upscale unpacked = .next t) ∧
    (∃ δ ∈ delta, ((0 : Nat) : Int) = (3 * ((0 : Nat) : Int) + 1) * 1440 + 3 * ((0 : Nat) : Int) + δ) ∧
    (∃ δ ∈ delta, ((276478 : Nat) : Int) = (3 * ((63 : Nat) : Int) + 1) * 1440 + 3 * ((479 : Nat) : Int) + δ) ∧
    Memory.wf 276480 [] ∧ ∀ s : State, (spreadAll s).2.reverse.Perm (spreadAll s).2 :=
  ⟨exec_answers_next _ _, ⟨-1440, by decide, by decide⟩, ⟨1441, by decide, by decide⟩, by decide,
    fun _ => List.reverse_perm _⟩

theorem test_witness_UpscaleFrame : ∃ t, exec .upscale unpacked = .next t := exec_answers_next _ _

/-- EmitBmpRawFile, EmitBmpScaledFile, EmitPcxFile, BmpLengthsAndNominalSizes, PcxLength, HeaderKeepsNoTrace. -/
theorem test_witness_EmitFiles : upscaled.phase = .idle ∧ upscaled.rawV = true ∧ upscaled.sclV = true ∧
    upscaled.sinkOk = true := by decide

theorem test_witness_EmissionFrame : (∃ t, exec .emitBmpR upscaled = .next t) ∧
    (∃ t, exec .emitBmpS upscaled = .next t) ∧ ∃ t, exec .emitPcx upscaled = .next t :=
  ⟨exec_answers_next _ _, exec_answers_next _ _, exec_answers_next _ _⟩

/-- ConvBmpScaledEndToEnd, ConvBmpRawEndToEnd, ConvPcxEndToEnd: an accepting sink, a refusing one, a short source. -/
theorem test_witness_ConvEndToEnd : offered.phase = .idle ∧ offered.input = pat ++ [] ∧ pat.length = 4096 ∧
    offered.sinkOk = true ∧ { offered with sinkOk := false }.sinkOk = false ∧ State.reset.input.length < 4096 :=
  ⟨rfl, (List.append_nil pat).symm, pat_length, rfl, rfl, by decide⟩

theorem test_witness_ChainEqualsScript : offered.phase = .idle ∧ 4096 ≤ offered.input.length ∧ offered.sinkOk = true :=
  ⟨rfl, pat_length.ge, rfl⟩

theorem test_witness_PipelineFrame : (∃ t, exec .convBmpR offered = .next t) ∧
    (∃ t, exec .convBmpS offered = .next t) ∧ ∃ t, exec .convPcx offered = .next t :=
  ⟨exec_answers_next _ _, exec_answers_next _ _, exec_answers_next _ _⟩

theorem test_witness_StaleBufferIsRefused : loaded.rawV = true ∧ { offered with input := pat ++ pat }.phase = .idle ∧
    { offered with input := pat ++ pat }.sinkOk = true ∧ 8192 ≤ { offered with input := pat ++ pat }.input.length :=
  ⟨rfl, rfl, rfl, by simp [pat_length]⟩

theorem test_witness_EveryStepKeepsTheBlockSafe : (Safe loading ∧ ∃ t, step loading = .next t) ∧
    (Safe (written pat) ∧ step (written pat) = .next (written pat)) ∧ ∃ t, Safe emittingLast ∧ step emittingLast = .next t :=
  ⟨⟨loading_safe, _, rfl⟩, ⟨written_safe pat_length, written_step pat⟩, _, emittingLast_safe, rfl⟩

theorem test_witness_SafeBlockNeverStops : Safe loading ∧ loading.resetSeen = true ∧ Safe emittingLast :=
  ⟨loading_safe, rfl, emittingLast_safe⟩

theorem test_witness_ValidFlagsStayTruthful : (Safe loading ∧ Truthful loading ∧ ∃ t, step loading = .next t) ∧
    Safe (written pat) ∧ Truthful (written pat) ∧ step (written pat) = .next (written pat) :=
  ⟨⟨loading_safe, loading_truthful, _, rfl⟩, written_safe pat_length, written_truthful pat_length, written_step pat⟩

theorem test_witness_ValidPixelsAreBits : Truthful (written pat) ∧
    ((written pat).sclV = true → (written pat).unpV = true) ∧ (written pat).unpV = true ∧ (written pat).sclV = true :=
  ⟨written_truthful pat_length, fun _ => (written_flags pat).2.1, (written_flags pat).2⟩

theorem test_witness_BeatsCarryOutTheCommand : offered.phase = .idle := rfl

theorem test_witness_StreamsOnlyMoveForward : ∃ t, step loading = .next t ∧ t.input = [8] := ⟨_, rfl, rfl⟩

theorem test_witness_MarkOnlyAtTheEndOfTheFile :
    (Safe emitting ∧ emitting.phase = .run ∧ emitting.stage = .emitPcx ∧ ∃ t, beat emitting = .next t) ∧
    Safe emittingLast ∧ emittingLast.phase = .run ∧ emittingLast.stage = .emitPcx ∧ ∃ t, beat emittingLast = .next t :=
  ⟨⟨emitting_safe, rfl, rfl, _, rfl⟩, emittingLast_safe, rfl, rfl, _, rfl⟩

theorem test_witness_ParametersNeverChange : ∃ t, step loading = .next t := ⟨_, rfl⟩

end Sys2Proof.Tests
end

/-!
PROOFS. The statements of the scope family: a step runs the issued command, and the beats of a command end where `exec`
ends. A run of beats is the reflexive-transitive closure of `BeatsTo`. Each primitive's loop has its state after `k`
iterations in closed form, one beat takes the form at `k` to the form at `k + 1`, and the last beat ends the primitive;
the commands are then put together from their primitives in the order of R67 to R70.
-/

namespace Sys2Proof.Machine

/-! ## Runs of beats -/

/-- One beat of a running block takes `s` to `t`. -/
def BeatsTo (s t : State) : Prop := s.phase = .run ∧ beat s = .next t

/-- Some number of beats takes `s` to `t`. -/
abbrev RunsTo : State → State → Prop := Relation.ReflTransGen BeatsTo

theorem beatsTo_beatBody {s : State} (hp : s.phase = .run) (hr : s.inRange = true) : BeatsTo s (beatBody s) :=
  ⟨hp, beat_inRange hr⟩

theorem runBeats_of_beatsTo {s t : State} (h : BeatsTo s t) (n : Nat) : runBeats (n + 1) s = runBeats n t := by
  rw [runBeats, if_pos h.1, h.2]

theorem RunsTo.exists_runBeats {s t : State} (h : RunsTo s t) : ∃ n, runBeats n s = .next t := by
  induction h using Relation.ReflTransGen.head_induction_on with
  | refl => exact ⟨0, rfl⟩
  | head hb _ ih =>
    obtain ⟨n, hn⟩ := ih
    exact ⟨n + 1, (runBeats_of_beatsTo hb n).trans hn⟩

/-- A loop of `n` beats whose state after `k` of them is `f k`. -/
theorem RunsTo.of_loop {f : Nat → State} {n : Nat} (h : ∀ k < n, BeatsTo (f k) (f (k + 1))) : RunsTo (f 0) (f n) := by
  induction n with
  | zero => exact .refl
  | succ n ih => exact (ih fun k hk => h k (Nat.lt_succ_of_lt hk)).tail (h n (Nat.lt_succ_self n))

/-! ## One beat of each primitive -/

theorem beatsTo_load {s : State} (hp : s.phase = .run) (hst : s.stage = .load) (hr : s.incnt.toNat < 4096) :
    BeatsTo s (loadBeat s) := by
  have hb : beatBody s = loadBeat s := by rw [beatBody, hst]
  exact hb ▸ beatsTo_beatBody hp (by simpa [State.inRange, hst] using hr)

theorem beatsTo_unpack {s : State} (hp : s.phase = .run) (hst : s.stage = .unpack) (hc : s.col.toNat < 60)
    (hi : s.idx.toNat + 8 ≤ 30720) : BeatsTo s (unpackBeat s) := by
  have hb : beatBody s = unpackBeat s := by rw [beatBody, hst]
  exact hb ▸ beatsTo_beatBody hp (by simp [State.inRange, hst, hc]; omega)

theorem beatsTo_upscale {s : State} (hp : s.phase = .run) (hst : s.stage = .upscale) (hi : s.idx.toNat < 30720) :
    BeatsTo s (upscaleBeat s) := by
  have hb : beatBody s = upscaleBeat s := by rw [beatBody, hst]
  exact hb ▸ beatsTo_beatBody hp (by simpa [State.inRange, hst] using hi)

theorem beatsTo_emit {s : State} (hp : s.phase = .run) (hst : s.stage = .emitBmp ∨ s.stage = .emitPcx)
    (hr : s.inRange = true) : BeatsTo s (emitBeat s) := by
  have hb : beatBody s = emitBeat s := by rcases hst with h | h <;> rw [beatBody, h]
  exact hb ▸ beatsTo_beatBody hp hr

/-! ## The nested loops `for ROW in 0..63: for COL in 0..lastCol` -/

/-- `ROW` and `COL` at iteration `j` of their loops. -/
def place (lastCol : BitVec 6) (j : Nat) (s : State) : State :=
  { s with row := BitVec.ofNat 6 (j / (lastCol.toNat + 1)), col := BitVec.ofNat 6 (j % (lastCol.toNat + 1)) }

section

variable {lastCol : BitVec 6} {j : Nat} (s : State)

@[simp] theorem place_phase : (place lastCol j s).phase = s.phase := rfl
@[simp] theorem place_cmdreg : (place lastCol j s).cmdreg = s.cmdreg := rfl
@[simp] theorem place_stage : (place lastCol j s).stage = s.stage := rfl
@[simp] theorem place_params : (place lastCol j s).params = s.params := rfl
@[simp] theorem place_read (b : Buffer) (a : Nat) : (place lastCol j s).read b a = s.read b a := rfl

theorem place_row (hj : j < 64 * (lastCol.toNat + 1)) :
    (place lastCol j s).row.toNat = j / (lastCol.toNat + 1) := by
  rw [place, BitVec.toNat_ofNat, Nat.mod_eq_of_lt (Nat.div_lt_of_lt_mul (by rwa [Nat.mul_comm]))]

theorem place_col : (place lastCol j s).col.toNat = j % (lastCol.toNat + 1) := by
  rw [place, BitVec.toNat_ofNat,
    Nat.mod_eq_of_lt (Nat.lt_of_lt_of_le (Nat.mod_lt _ (Nat.succ_pos _)) lastCol.isLt)]

theorem atLast_place (hc : lastCol = 59 ∨ lastCol = 63) (hj : j < 64 * (lastCol.toNat + 1)) :
    atLast lastCol (place lastCol j s) = decide (j + 1 = 64 * (lastCol.toNat + 1)) := by
  have hr := place_row s hj
  have hk := place_col (lastCol := lastCol) (j := j) s
  rw [atLast, Bool.eq_iff_iff]
  simp only [Bool.and_eq_true, beq_iff_eq, decide_eq_true_eq, ← BitVec.toNat_inj, hr, hk]
  rcases hc with rfl | rfl <;> simp at hj ⊢ <;> omega

theorem eq_place {r c : BitVec 6} (hr : r.toNat = j / (lastCol.toNat + 1)) (hc : c.toNat = j % (lastCol.toNat + 1)) :
    { s with row := r, col := c } = place lastCol j s := by
  rw [place, ← hr, ← hc, BitVec.ofNat_toNat, BitVec.ofNat_toNat, BitVec.setWidth_eq, BitVec.setWidth_eq]

theorem advance_place (hc : lastCol = 59 ∨ lastCol = 63) (hj : j + 1 < 64 * (lastCol.toNat + 1)) :
    advance lastCol (place lastCol j s) = place lastCol (j + 1) s := by
  have hr := place_row s (Nat.lt_of_succ_lt hj)
  have hk := place_col (lastCol := lastCol) (j := j) s
  unfold advance
  split_ifs with h
  · rw [h] at hk
    refine eq_place s ?_ ?_
    · rw [BitVec.toNat_add, hr]
      rcases hc with rfl | rfl <;> simp at hj hk ⊢ <;> omega
    · rcases hc with rfl | rfl <;> simp at hk ⊢ <;> omega
  · have h := mt BitVec.eq_of_toNat_eq h
    rw [hk] at h
    refine eq_place s ?_ ?_
    · rw [hr]
      rcases hc with rfl | rfl <;> simp at h ⊢ <;> omega
    · rw [BitVec.toNat_add, hk]
      rcases hc with rfl | rfl
      · simp at h ⊢; omega
      · simp

end

/-! ## LOAD -/

theorem frameWrites_concat (ds : List Byte) (v : Byte) :
    frameWrites (ds ++ [v]) = frameWrites ds ++ (frameWrite v ds.length).toList := by
  rw [frameWrites, List.zipIdx_append, List.filterMap_append]
  cases h : frameWrite v ds.length <;> simp [frameWrites, h]

theorem writeAll_frameWrite (m : Memory) (v : Byte) (k : Nat) :
    m.writeAll (frameWrite v k).toList = if k % 64 < 60 then m.write (rawIndex (k / 64) (k % 64)) v else m := by
  unfold frameWrite
  split_ifs <;> rfl

/-- LOAD's loop after `k` bytes, but for `ROW` and `COL`. -/
def taken (k : Nat) (s : State) : State :=
  { s with
    input := s.input.drop k, incnt := BitVec.ofNat 13 k, raw := s.raw.writeAll (frameWrites (s.input.take k)) }

/-- LOAD's work on one byte (R44). -/
def takeByte (v : Byte) (rest : List Byte) (s : State) : State :=
  { s with
    input := rest, incnt := s.incnt + 1
    raw := if s.col.toNat < 60 then s.raw.write (rawIndex s.row.toNat s.col.toNat) v else s.raw }

theorem loadBeat_cons {s : State} {v : Byte} {rest : List Byte} (h : s.input = v :: rest) :
    loadBeat s = if atLast 63 s then finishPrimitive { takeByte v rest s with rawV := true }
      else advance 63 (takeByte v rest s) := by
  rw [loadBeat, h]; rfl

theorem loadBeat_nil {s : State} (h : s.input = []) :
    loadBeat s = s.forgetRaw.raise .sourceReadError (s.incnt.setWidth 16) := by
  rw [loadBeat, h]

theorem takeByte_taken {s : State} {k : Nat} (hk : k < 4096) (hl : k < s.input.length) :
    takeByte s.input[k] (s.input.drop (k + 1)) (place 63 k (taken k s)) = place 63 k (taken (k + 1) s) := by
  have hr : (place 63 k (taken k s)).row.toNat = k / 64 := place_row _ (by simpa using hk)
  have hc : (place 63 k (taken k s)).col.toNat = k % 64 := place_col _
  have hraw : (if k % 64 < 60 then (place 63 k (taken k s)).raw.write (rawIndex (k / 64) (k % 64)) s.input[k]
      else (place 63 k (taken k s)).raw) = (taken (k + 1) s).raw := by
    rw [← writeAll_frameWrite]
    simp only [place, taken]
    rw [← Memory.writeAll_append, List.take_succ_eq_append_getElem hl, frameWrites_concat, List.length_take,
      Nat.min_eq_left hl.le]
  have hcnt : (place 63 k (taken k s)).incnt + 1 = (taken (k + 1) s).incnt := (BitVec.ofNat_add k 1).symm
  rw [takeByte, hr, hc, hraw, hcnt]
  rfl

theorem loadBeat_taken {s : State} {k : Nat} (hk : k < 4096) (hl : k < s.input.length) :
    loadBeat (place 63 k (taken k s)) =
      if k + 1 = 4096 then finishPrimitive { place 63 k (taken (k + 1) s) with rawV := true }
      else advance 63 (place 63 k (taken (k + 1) s)) := by
  have hlast : atLast 63 (place 63 k (taken k s)) = decide (k + 1 = 4096) := atLast_place _ (.inr rfl) hk
  rw [loadBeat_cons (List.drop_eq_getElem_cons hl), takeByte_taken hk hl, hlast]
  simp only [decide_eq_true_eq]

theorem beatsTo_loadBeat_taken {s : State} (hp : s.phase = .run) (hst : s.stage = .load) {k : Nat} (hk : k < 4096) :
    BeatsTo (place 63 k (taken k s)) (loadBeat (place 63 k (taken k s))) := by
  have h : (BitVec.ofNat 13 k).toNat < 4096 := by rw [BitVec.toNat_ofNat]; omega
  exact beatsTo_load hp hst h

/-- The bytes LOAD has, but for the last of a whole frame. -/
theorem runsTo_taken {s : State} (hp : s.phase = .run) (hst : s.stage = .load) {n : Nat} (hn : n < 4096)
    (hl : n ≤ s.input.length) : RunsTo (place 63 0 (taken 0 s)) (place 63 n (taken n s)) := by
  refine RunsTo.of_loop (f := fun k => place 63 k (taken k s)) fun k hk => ?_
  have h := beatsTo_loadBeat_taken hp hst (k := k) (by omega)
  rwa [loadBeat_taken (by omega) (by omega), if_neg (by omega), advance_place _ (.inr rfl) (by simp; omega)] at h

theorem place_taken_zero {s : State} (hi : s.incnt = 0) (hr : s.row = 0) (hc : s.col = 0) :
    place 63 0 (taken 0 s) = s := by
  cases s
  simp_all [place, taken, frameWrites]

theorem runsTo_loadFull {s : State} (hp : s.phase = .run) (hst : s.stage = .load) (hl : 4096 ≤ s.input.length) :
    RunsTo (place 63 0 (taken 0 s)) (finishPrimitive (loadFull s)) := by
  have h := beatsTo_loadBeat_taken hp hst (k := 4095) (by decide)
  rw [loadBeat_taken (by decide) (by omega), if_pos rfl] at h
  exact (runsTo_taken hp hst (by decide) (by omega)).tail h

theorem runsTo_loadShort {s : State} (hp : s.phase = .run) (hst : s.stage = .load) (hl : s.input.length < 4096) :
    RunsTo (place 63 0 (taken 0 s)) (loadShort s) := by
  have h := beatsTo_loadBeat_taken hp hst hl
  have hin : (place 63 s.input.length (taken s.input.length s)).input = [] := List.drop_length
  have hinfo : (BitVec.ofNat 13 s.input.length).setWidth 16 = BitVec.ofNat 16 s.input.length :=
    BitVec.eq_of_toNat_eq (by simp only [BitVec.toNat_setWidth, BitVec.toNat_ofNat]; omega)
  have hend : loadBeat (place 63 s.input.length (taken s.input.length s)) = loadShort s := by
    rw [loadBeat_nil hin, loadShort, ← hinfo]
    simp only [State.forgetRaw, State.raise, place, taken, List.drop_length]
    rfl
  exact (runsTo_taken hp hst hl le_rfl).tail (hend ▸ h)

/-! ## UNPACK -/

/-- A doubly nested loop is one loop over the iterations in order. -/
theorem flatMap_range_range {α : Type} (n m : Nat) (g : Nat → Nat → List α) :
    ((List.range n).flatMap fun r => (List.range m).flatMap (g r)) =
      (List.range (n * m)).flatMap fun j => g (j / m) (j % m) := by
  induction n with
  | zero => simp
  | succ n ih =>
    rw [List.range_succ, List.flatMap_append, ih, Nat.succ_mul, List.range_add, List.flatMap_append,
      List.flatMap_map, List.flatMap_singleton]
    congr 1
    refine List.flatMap_congr fun b hb => ?_
    have hb := List.mem_range.1 hb
    rw [Nat.mul_comm n m, Nat.mul_add_div (by omega), Nat.mul_add_mod, Nat.div_eq_of_lt hb, Nat.mod_eq_of_lt hb,
      Nat.add_zero]

/-- The writes of UNPACK's first `k` iterations. -/
def unpackWritesTo (rd : Nat → Byte) (k : Nat) : List Host.Cell :=
  (List.range k).flatMap fun j => byteWrites (j * 8) (rd (rawIndex (63 - j / 60) (j % 60)))

theorem unpackWritesTo_succ (rd : Nat → Byte) (k : Nat) :
    unpackWritesTo rd (k + 1) =
      unpackWritesTo rd k ++ byteWrites (k * 8) (rd (rawIndex (63 - k / 60) (k % 60))) := by
  simp [unpackWritesTo, List.range_succ]

theorem unpackWritesTo_all (rd : Nat → Byte) : unpackWritesTo rd 3840 = unpackWrites rd := by
  rw [unpackWrites, flatMap_range_range, unpackWritesTo]
  refine List.flatMap_congr fun j _ => ?_
  rw [show unpIndex (j / 60) (j % 60 * 8) = j * 8 by unfold unpIndex; omega]

/-- UNPACK's loop after `k` packed bytes, but for `ROW` and `COL`. -/
def expanded (k : Nat) (s : State) : State :=
  { s with unp := s.unp.writeAll (unpackWritesTo (s.read .raw) k), idx := BitVec.ofNat 15 (k * 8) }

/-- UNPACK's work on one packed byte (R46). -/
def expandByte (s : State) : State :=
  { s with
    unp := s.unp.writeAll (byteWrites s.idx.toNat (s.read .raw (rawIndex (63 - s.row.toNat) s.col.toNat)))
    idx := s.idx + 8 }

theorem unpackBeat_eq (s : State) :
    unpackBeat s = if atLast 59 s then finishPrimitive { expandByte s with unpV := true }
      else advance 59 (expandByte s) := rfl

theorem expandByte_expanded {s : State} {k : Nat} (hk : k < 3840) :
    expandByte (place 59 k (expanded k s)) = place 59 k (expanded (k + 1) s) := by
  have hr : (place 59 k (expanded k s)).row.toNat = k / 60 := place_row _ (by simpa using hk)
  have hc : (place 59 k (expanded k s)).col.toNat = k % 60 := place_col _
  have hi : (place 59 k (expanded k s)).idx.toNat = k * 8 := by simp [place, expanded]; omega
  have hnext : (place 59 k (expanded k s)).idx + 8 = (expanded (k + 1) s).idx := by
    show BitVec.ofNat 15 (k * 8) + 8 = BitVec.ofNat 15 ((k + 1) * 8)
    rw [Nat.succ_mul, BitVec.ofNat_add]; rfl
  have hunp : (place 59 k (expanded k s)).unp.writeAll
      (byteWrites (k * 8) ((place 59 k (expanded k s)).read .raw (rawIndex (63 - k / 60) (k % 60))))
      = (expanded (k + 1) s).unp := by
    simp only [expanded]
    rw [unpackWritesTo_succ, Memory.writeAll_append]
    rfl
  rw [expandByte, hi, hr, hc, hunp, hnext]
  rfl

theorem beatsTo_expanded {s : State} (hp : s.phase = .run) (hst : s.stage = .unpack) {k : Nat} (hk : k < 3840) :
    BeatsTo (place 59 k (expanded k s))
      (if k + 1 = 3840 then finishPrimitive { place 59 k (expanded (k + 1) s) with unpV := true }
        else advance 59 (place 59 k (expanded (k + 1) s))) := by
  have hc : (place 59 k (expanded k s)).col.toNat = k % 60 := place_col _
  have hi : (place 59 k (expanded k s)).idx.toNat = k * 8 := by simp [place, expanded]; omega
  have hlast : atLast 59 (place 59 k (expanded k s)) = decide (k + 1 = 3840) := atLast_place _ (.inl rfl) hk
  have h := beatsTo_unpack (s := place 59 k (expanded k s)) hp hst (by omega) (by omega)
  rw [unpackBeat_eq, expandByte_expanded hk, hlast] at h
  simpa only [decide_eq_true_eq] using h

theorem place_expanded_zero {s : State} (hi : s.idx = 0) (hr : s.row = 0) (hc : s.col = 0) :
    place 59 0 (expanded 0 s) = s := by
  cases s
  simp_all [place, expanded, unpackWritesTo]

theorem runsTo_unpackBody {s : State} (hp : s.phase = .run) (hst : s.stage = .unpack) (hi : s.idx = 0)
    (hr : s.row = 0) (hc : s.col = 0) : RunsTo s (finishPrimitive (unpackBody s)) := by
  have hloop : RunsTo (place 59 0 (expanded 0 s)) (place 59 3839 (expanded 3839 s)) := by
    refine RunsTo.of_loop (f := fun k => place 59 k (expanded k s)) fun k hk => ?_
    have h := beatsTo_expanded hp hst (k := k) (by omega)
    rwa [if_neg (by omega), advance_place _ (.inl rfl) (by simp; omega)] at h
  have hlast := beatsTo_expanded hp hst (k := 3839) (by decide)
  have hbody : { place 59 3839 (expanded 3840 s) with unpV := true } = unpackBody s := by
    rw [unpackBody, ← unpackWritesTo_all]
    simp only [place, expanded]
    rfl
  rw [place_expanded_zero hi hr hc] at hloop
  rw [if_pos rfl, hbody] at hlast
  exact hloop.tail hlast

/-! ## UPSCALE -/

theorem spreadFrom_concat (ps : List Byte) (p : Byte) (idx : Nat) (start : Int) :
    spreadFrom (ps ++ [p]) idx start =
      (nextStart (idx + ps.length) (spreadFrom ps idx start).1,
        (spreadFrom ps idx start).2 ++
          spreadWrites (nextStart (idx + ps.length) (spreadFrom ps idx start).1) p) := by
  induction ps generalizing idx start with
  | nil => simp [spreadFrom]
  | cons q ps ih => simp [spreadFrom, ih, Nat.add_assoc, Nat.add_comm 1]

/-- `START` and the writes of the spread phase's first `k` source pixels. -/
def spreadTo (k : Nat) (s : State) : Int × List Host.Cell := spreadFrom (s.readFlat .unp k) 0 s.start.toInt

theorem spreadTo_succ (k : Nat) (s : State) :
    spreadTo (k + 1) s = (nextStart k (spreadTo k s).1,
      (spreadTo k s).2 ++ spreadWrites (nextStart k (spreadTo k s).1) (s.read .unp k)) := by
  have h : s.readFlat .unp (k + 1) = s.readFlat .unp k ++ [s.read .unp k] := by
    simp [State.readFlat, List.range_succ]
  rw [spreadTo, h, spreadFrom_concat, State.readFlat_length, Nat.zero_add, spreadTo]

/-- `START` never leaves its 20 bits (R52). -/
theorem toInt_spreadTo {k : Nat} (hk : k ≤ 30720) (s : State) :
    (BitVec.ofInt 20 (spreadTo k s).1).toInt = (spreadTo k s).1 := by
  rw [spreadTo, (spreadFrom_anchor _ 0 _ (by simp)).1, State.readFlat_length]
  split_ifs with h
  · rw [BitVec.ofInt_toInt]
  · rw [BitVec.toInt_ofInt]
    refine Int.bmod_eq_of_le ?_ ?_ <;> simp only [Safety.anchor] <;> omega

/-- UPSCALE's spread phase after `k` source pixels. -/
def spread (k : Nat) (s : State) : State :=
  { s with
    scl := s.scl.writeAll (spreadTo k s).2, start := BitVec.ofInt 20 (spreadTo k s).1, idx := BitVec.ofNat 15 k }

/-- UPSCALE's work on one source pixel (R50). -/
def spreadPixel (s : State) : State :=
  { s with
    scl := s.scl.writeAll (spreadWrites (nextStart s.idx.toNat s.start.toInt) (s.read .unp s.idx.toNat))
    start := BitVec.ofInt 20 (nextStart s.idx.toNat s.start.toInt) }

theorem upscaleBeat_eq (s : State) :
    upscaleBeat s = if s.idx = 30719 then finishPrimitive { spreadPixel s with sclV := true }
      else { spreadPixel s with idx := s.idx + 1 } := rfl

theorem spread_idx {k : Nat} (hk : k < 30720) (s : State) : (spread k s).idx.toNat = k := by
  simp [spread]; omega

theorem spreadPixel_spread {s : State} {k : Nat} (hk : k < 30720) :
    spreadPixel (spread k s) = { spread (k + 1) s with idx := BitVec.ofNat 15 k } := by
  have hs : (spread k s).start.toInt = (spreadTo k s).1 := toInt_spreadTo hk.le s
  have hscl : (spread k s).scl.writeAll (spreadWrites (nextStart k (spreadTo k s).1) ((spread k s).read .unp k))
      = (spread (k + 1) s).scl := by
    simp only [spread]
    rw [spreadTo_succ, Memory.writeAll_append]
    rfl
  have hstart : BitVec.ofInt 20 (nextStart k (spreadTo k s).1) = (spread (k + 1) s).start := by
    simp only [spread, spreadTo_succ]
  rw [spreadPixel, spread_idx hk, hs, hscl, hstart]
  rfl

theorem beatsTo_spread {s : State} (hp : s.phase = .run) (hst : s.stage = .upscale) {k : Nat} (hk : k < 30720) :
    BeatsTo (spread k s)
      (if k = 30719 then finishPrimitive { spread (k + 1) s with idx := BitVec.ofNat 15 k, sclV := true }
        else spread (k + 1) s) := by
  have hi : (spread k s).idx = 30719 ↔ k = 30719 := by
    rw [← BitVec.toNat_inj, spread_idx hk]; rfl
  have hidx : (spread k s).idx + 1 = BitVec.ofNat 15 (k + 1) := (BitVec.ofNat_add k 1).symm
  have h := beatsTo_upscale (s := spread k s) hp hst (by rwa [spread_idx hk])
  rw [upscaleBeat_eq, spreadPixel_spread hk, hidx] at h
  simp only [hi] at h
  exact h

theorem spread_zero {s : State} (hi : s.idx = 0) : spread 0 s = s := by
  cases s
  simp_all [spread, spreadTo, State.readFlat, spreadFrom]

theorem runsTo_upscaleBody {s : State} (hp : s.phase = .run) (hst : s.stage = .upscale) (hi : s.idx = 0) :
    RunsTo s (finishPrimitive (upscaleBody s)) := by
  have hloop : RunsTo (spread 0 s) (spread 30719 s) := RunsTo.of_loop (f := (spread · s)) fun k hk => by
    have h := beatsTo_spread hp hst (k := k) (by omega)
    rwa [if_neg (by omega)] at h
  have hlast := beatsTo_spread hp hst (k := 30719) (by decide)
  have hbody : { spread 30720 s with idx := BitVec.ofNat 15 30719, sclV := true } = upscaleBody s := by
    rw [upscaleBody]
    simp only [spread, spreadTo, spreadAll]
    rfl
  rw [spread_zero hi] at hloop
  rw [if_pos rfl, hbody] at hlast
  exact hloop.tail hlast

/-! ## The emissions -/

/-- An emission of the file `bs` after `k` bytes, but for `ROW` and `COL`. -/
def emitted (bs : List Byte) (k : Nat) (s : State) : State :=
  { s with output := s.output ++ (markLast bs).take k, outcnt := BitVec.ofNat 19 k }

section

variable (bs : List Byte) (k : Nat) (s : State)

@[simp] theorem emitted_phase : (emitted bs k s).phase = s.phase := rfl
@[simp] theorem emitted_cmdreg : (emitted bs k s).cmdreg = s.cmdreg := rfl
@[simp] theorem emitted_stage : (emitted bs k s).stage = s.stage := rfl
@[simp] theorem emitted_row : (emitted bs k s).row = s.row := rfl
@[simp] theorem emitted_col : (emitted bs k s).col = s.col := rfl
@[simp] theorem emitted_params : (emitted bs k s).params = s.params := rfl
@[simp] theorem emitted_read (b : Buffer) (a : Nat) : (emitted bs k s).read b a = s.read b a := rfl
@[simp] theorem emitted_atLast (lastCol : BitVec 6) : atLast lastCol (emitted bs k s) = atLast lastCol s := rfl

end

theorem emitted_length (bs : List Byte) (s : State) : emitted bs bs.length s = s.emitFile bs := by
  rw [emitted, State.emitFile, List.take_of_length_le (by simp)]

theorem emitted_zero {bs : List Byte} {s : State} (h : s.outcnt = 0) : emitted bs 0 s = s := by
  cases s
  simp_all [emitted]

theorem emitted_outcnt {bs : List Byte} {k : Nat} (hk : k < 2 ^ 19) (s : State) :
    (emitted bs k s).outcnt.toNat = k := by
  rw [emitted, BitVec.toNat_ofNat, Nat.mod_eq_of_lt hk]

theorem markLast_getElem?_eq {bs : List Byte} {k : Nat} {v : Byte} (h : bs[k]? = some v) :
    (markLast bs)[k]? = some (v, k + 1 == bs.length) := by
  rw [markLast_getElem?, h, Option.map_some]

theorem emitBeat_emitted {bs : List Byte} {k : Nat} {s : State} (hk : k < bs.length)
    (h : (emitted bs k s).nextOut = (markLast bs)[k]?) :
    emitBeat (emitted bs k s) = if k + 1 = bs.length then finishPrimitive (emitted bs (k + 1) s)
      else if (emitted bs k s).endsIteration then advance 59 (emitted bs (k + 1) s) else emitted bs (k + 1) s := by
  have hb := markLast_getElem?_eq (List.getElem?_eq_getElem hk)
  have hnext : ({ emitted bs k s with
      output := (emitted bs k s).output ++ [(bs[k], k + 1 == bs.length)]
      outcnt := (emitted bs k s).outcnt + 1 } : State) = emitted bs (k + 1) s := by
    simp only [emitted, List.take_add_one, hb, Option.toList_some, List.append_assoc, BitVec.ofNat_add]
    rfl
  rw [emitBeat, h, hb]
  simp only [hnext, beq_iff_eq]

/-- What an encoder's loop needs to emit the file `bs`, one byte a beat: `before k` holds `ROW` and `COL` as they stand
before byte `k`, and `emitted` adds the bytes and `OUTCNT`. -/
structure EmitLoop (bs : List Byte) (before : Nat → State) : Prop where
  phase : ∀ k, (before k).phase = .run
  stage : ∀ k, (before k).stage = .emitBmp ∨ (before k).stage = .emitPcx
  inRange : ∀ k < bs.length, (emitted bs k (before k)).inRange = true
  nextOut : ∀ k < bs.length, (emitted bs k (before k)).nextOut = (markLast bs)[k]?
  goesOn : ∀ k, k + 1 < bs.length →
    (if (emitted bs k (before k)).endsIteration then advance 59 (emitted bs (k + 1) (before k))
      else emitted bs (k + 1) (before k)) = emitted bs (k + 1) (before (k + 1))

theorem EmitLoop.runsTo {bs : List Byte} {before : Nat → State} (h : EmitLoop bs before) {n : Nat}
    (hn : bs.length = n + 1) :
    RunsTo (emitted bs 0 (before 0)) (finishPrimitive ((before n).emitFile bs)) := by
  have hbeat : ∀ k < bs.length, BeatsTo (emitted bs k (before k)) (emitBeat (emitted bs k (before k))) := fun k hk =>
    beatsTo_emit (h.phase k) (h.stage k) (h.inRange k hk)
  have hloop : RunsTo (emitted bs 0 (before 0)) (emitted bs n (before n)) := by
    refine RunsTo.of_loop (f := fun k => emitted bs k (before k)) fun k hk => ?_
    have hb := hbeat k (by omega)
    rwa [emitBeat_emitted (by omega) (h.nextOut k (by omega)), if_neg (by omega), h.goesOn k (by omega)] at hb
  have hlast := hbeat n (by omega)
  rw [emitBeat_emitted (by omega) (h.nextOut n (by omega)), if_pos hn.symm, ← hn, emitted_length] at hlast
  exact hloop.tail hlast

theorem getElem?_append_getD {α : Type} {l : List α} (r : List α) (d : α) {k : Nat} (hk : k < l.length) :
    (l ++ r)[k]? = some (l.getD k d) := by
  rw [List.getElem?_append_left hk, List.getElem?_eq_getElem hk, List.getD_eq_getElem _ _ hk]

theorem nextOut_emitBmp {s : State} (hp : s.phase = .run) (hst : s.stage = .emitBmp) :
    s.nextOut =
      if s.outcnt.toNat < 146 then some ((bmpHeader s.params (scaleOf s.cmdreg)).getD s.outcnt.toNat 0, false)
      else if scaleOf s.cmdreg then some (s.read .scl (s.outcnt.toNat - 146), s.outcnt.toNat - 146 == 276479)
      else some (s.read .raw (rawIndex (63 - s.row.toNat) s.col.toNat), atLast 59 s) := by
  rw [State.nextOut, hp, hst]

theorem nextOut_emitPcx {s : State} (hp : s.phase = .run) (hst : s.stage = .emitPcx) :
    s.nextOut =
      if s.outcnt.toNat < 128 then some (s.params.pcxHdr.toList.getD s.outcnt.toNat 0, false)
      else if (s.outcnt.toNat - 128) % 2 = 0 then some (pcxRun, false)
      else some (s.read .raw (rawIndex s.row.toNat s.col.toNat), atLast 59 s) := by
  rw [State.nextOut, hp, hst]

theorem inRange_emitBmp {s : State} (hst : s.stage = .emitBmp) :
    s.inRange = if scaleOf s.cmdreg then decide (s.outcnt.toNat < 276626)
      else decide (s.col.toNat < 60) && decide (s.outcnt.toNat < 3986) := by
  rw [State.inRange, hst]

theorem inRange_emitPcx {s : State} (hst : s.stage = .emitPcx) :
    s.inRange = (decide (s.col.toNat < 60) && decide (s.outcnt.toNat < 7808)) := by
  rw [State.inRange, hst]

theorem endsIteration_emitBmp {s : State} (hst : s.stage = .emitBmp) :
    s.endsIteration = (!scaleOf s.cmdreg && decide (146 ≤ s.outcnt.toNat)) := by
  rw [State.endsIteration, hst]

theorem endsIteration_emitPcx {s : State} (hst : s.stage = .emitPcx) :
    s.endsIteration = (decide (128 ≤ s.outcnt.toNat) && (s.outcnt.toNat - 128) % 2 == 1) := by
  rw [State.endsIteration, hst]

/-- In a row-by-row emission the end of an iteration moves `ROW` and `COL` on. -/
theorem advance_emitted_place {bs : List Byte} {k j : Nat} (s : State) (hj : j + 1 < 3840) :
    advance 59 (emitted bs k (place 59 j s)) = emitted bs k (place 59 (j + 1) s) :=
  advance_place (emitted bs k s) (.inl rfl) (by simpa using hj)

theorem place_zero {lastCol : BitVec 6} {s : State} (hr : s.row = 0) (hc : s.col = 0) : place lastCol 0 s = s := by
  cases s
  simp_all [place]

/-! ### EMITBMP.S -/

theorem bmpScaledFile_getElem? {s : State} {k : Nat} (hk : k < 276626) :
    (bmpScaledFile s)[k]? =
      some (if k < 146 then (bmpHeader s.params true).getD k 0 else s.read .scl (k - 146)) := by
  rw [bmpScaledFile]
  split_ifs with h
  · exact getElem?_append_getD _ _ (by simpa using h)
  · rw [List.getElem?_append_right (by simpa using h), bmpHeader_length, State.readFlat_getElem? _ _ (by omega)]

theorem emitLoop_bmpScaled {s : State} (hp : s.phase = .run) (hst : s.stage = .emitBmp)
    (hw : scaleOf s.cmdreg = true) : EmitLoop (bmpScaledFile s) fun _ => s where
  phase _ := hp
  stage _ := .inl hst
  inRange k hk := by
    rw [bmpScaledFile_length] at hk
    have ho := emitted_outcnt (bs := bmpScaledFile s) (k := k) (by omega) s
    rw [inRange_emitBmp (by simpa using hst), ho, emitted_cmdreg, hw]
    simpa using hk
  nextOut k hk := by
    rw [bmpScaledFile_length] at hk
    have ho := emitted_outcnt (bs := bmpScaledFile s) (k := k) (by omega) s
    rw [nextOut_emitBmp (by simpa using hp) (by simpa using hst), ho, emitted_params, emitted_cmdreg, hw, emitted_read,
      markLast_getElem?_eq (bmpScaledFile_getElem? hk), bmpScaledFile_length, if_pos rfl]
    split_ifs with h
    · rw [beq_eq_false_iff_ne.2 (by omega : k + 1 ≠ 276626)]
    · rw [show (k - 146 == 276479) = (k + 1 == 276626) by rw [Bool.eq_iff_iff]; simp; omega]
  goesOn k hk := by
    rw [endsIteration_emitBmp (by simpa using hst), emitted_cmdreg, hw]
    rfl

/-! ### EMITBMP.R -/

theorem bmpRawFile_getElem? {s : State} {k : Nat} (hk : k < 3986) :
    (bmpRawFile s)[k]? = some (if k < 146 then (bmpHeader s.params false).getD k 0
      else s.read .raw (rawIndex (63 - (k - 146) / 60) ((k - 146) % 60))) := by
  rw [bmpRawFile]
  split_ifs with h
  · exact getElem?_append_getD _ _ (by simpa using h)
  · rw [List.getElem?_append_right (by simpa using h), bmpHeader_length,
      ← bmpRawPixels_getElem? _ (r := (k - 146) / 60) (b := (k - 146) % 60) (by omega) (by omega),
      Nat.div_add_mod' (k - 146) 60]

theorem emitLoop_bmpRaw {s : State} (hp : s.phase = .run) (hst : s.stage = .emitBmp)
    (hw : scaleOf s.cmdreg = false) : EmitLoop (bmpRawFile s) fun k => place 59 (k - 146) s where
  phase _ := hp
  stage _ := .inl hst
  inRange k hk := by
    rw [bmpRawFile_length] at hk
    have ho := emitted_outcnt (bs := bmpRawFile s) (k := k) (by omega) (place 59 (k - 146) s)
    have hc : (place 59 (k - 146) s).col.toNat < 60 := by
      rw [place_col _]; exact Nat.mod_lt _ (by decide)
    rw [inRange_emitBmp (by simpa using hst), ho, emitted_cmdreg, place_cmdreg, hw, emitted_col]
    simpa using ⟨hc, hk⟩
  nextOut k hk := by
    rw [bmpRawFile_length] at hk
    have ho := emitted_outcnt (bs := bmpRawFile s) (k := k) (by omega) (place 59 (k - 146) s)
    have hr : (place 59 (k - 146) s).row.toNat = (k - 146) / 60 := place_row _ (by simp; omega)
    have hc : (place 59 (k - 146) s).col.toNat = (k - 146) % 60 := place_col _
    have hl : atLast 59 (place 59 (k - 146) s) = decide (k - 146 + 1 = 3840) :=
      atLast_place _ (.inl rfl) (by simp; omega)
    rw [nextOut_emitBmp (by simpa using hp) (by simpa using hst), ho, markLast_getElem?_eq (bmpRawFile_getElem? hk),
      bmpRawFile_length]
    simp only [emitted_params, emitted_cmdreg, emitted_read, emitted_row, emitted_col, emitted_atLast, place_params,
      place_cmdreg, place_read, hw, hr, hc, hl, Bool.false_eq_true, if_false]
    split_ifs with h
    · rw [beq_eq_false_iff_ne.2 (by omega : k + 1 ≠ 3986)]
    · rw [show decide (k - 146 + 1 = 3840) = (k + 1 == 3986) by rw [Bool.eq_iff_iff]; simp; omega]
  goesOn k hk := by
    rw [bmpRawFile_length] at hk
    have ho := emitted_outcnt (bs := bmpRawFile s) (k := k) (by omega) (place 59 (k - 146) s)
    rw [endsIteration_emitBmp (by simpa using hst), ho]
    simp only [emitted_cmdreg, place_cmdreg, hw, Bool.not_false, Bool.true_and, decide_eq_true_eq]
    split_ifs with h
    · rw [advance_emitted_place s (by omega), show k - 146 + 1 = k + 1 - 146 by omega]
    · rw [show k - 146 = k + 1 - 146 by omega]

/-! ### EMITPCX -/

theorem pcxFile_getElem? {s : State} {k : Nat} (hk : k < 7808) :
    (pcxFile s)[k]? = some (if k < 128 then s.params.pcxHdr.toList.getD k 0
      else if (k - 128) % 2 = 0 then pcxRun
      else s.read .raw (rawIndex ((k - 128) / 2 / 60) ((k - 128) / 2 % 60))) := by
  obtain ⟨hrun, hbyte⟩ := pcxPairs_getElem? (s.read .raw) (r := (k - 128) / 2 / 60) (b := (k - 128) / 2 % 60)
    (by omega) (by omega)
  rw [Nat.div_add_mod' ((k - 128) / 2) 60] at hrun hbyte
  rw [pcxFile]
  split_ifs with h h2
  · exact getElem?_append_getD _ _ (by simpa using h)
  · rw [List.getElem?_append_right (by simpa using h), Vector.length_toList, ← hrun,
      show 2 * ((k - 128) / 2) = k - 128 by omega]
  · rw [List.getElem?_append_right (by simpa using h), Vector.length_toList, ← hbyte,
      show 2 * ((k - 128) / 2) + 1 = k - 128 by omega]

theorem emitLoop_pcx {s : State} (hp : s.phase = .run) (hst : s.stage = .emitPcx) :
    EmitLoop (pcxFile s) fun k => place 59 ((k - 128) / 2) s where
  phase _ := hp
  stage _ := .inr hst
  inRange k hk := by
    rw [pcxFile_length] at hk
    have ho := emitted_outcnt (bs := pcxFile s) (k := k) (by omega) (place 59 ((k - 128) / 2) s)
    have hc : (place 59 ((k - 128) / 2) s).col.toNat < 60 := by
      rw [place_col _]; exact Nat.mod_lt _ (by decide)
    rw [inRange_emitPcx (by simpa using hst), ho, emitted_col]
    simpa using ⟨hc, hk⟩
  nextOut k hk := by
    rw [pcxFile_length] at hk
    have ho := emitted_outcnt (bs := pcxFile s) (k := k) (by omega) (place 59 ((k - 128) / 2) s)
    have hr : (place 59 ((k - 128) / 2) s).row.toNat = (k - 128) / 2 / 60 := place_row _ (by simp; omega)
    have hc : (place 59 ((k - 128) / 2) s).col.toNat = (k - 128) / 2 % 60 := place_col _
    have hl : atLast 59 (place 59 ((k - 128) / 2) s) = decide ((k - 128) / 2 + 1 = 3840) :=
      atLast_place _ (.inl rfl) (by simp; omega)
    rw [nextOut_emitPcx (by simpa using hp) (by simpa using hst), ho, markLast_getElem?_eq (pcxFile_getElem? hk),
      pcxFile_length]
    simp only [emitted_params, emitted_read, emitted_row, emitted_col, emitted_atLast, place_params, place_read, hr, hc,
      hl]
    split_ifs with h h2
    · rw [beq_eq_false_iff_ne.2 (by omega : k + 1 ≠ 7808)]
    · rw [beq_eq_false_iff_ne.2 (by omega : k + 1 ≠ 7808)]
    · rw [show decide ((k - 128) / 2 + 1 = 3840) = (k + 1 == 7808) by rw [Bool.eq_iff_iff]; simp; omega]
  goesOn k hk := by
    rw [pcxFile_length] at hk
    have ho := emitted_outcnt (bs := pcxFile s) (k := k) (by omega) (place 59 ((k - 128) / 2) s)
    rw [endsIteration_emitPcx (by simpa using hst), ho]
    simp only [Bool.and_eq_true, decide_eq_true_eq, beq_iff_eq]
    split_ifs with h
    · rw [advance_emitted_place s (by omega), show (k - 128) / 2 + 1 = (k + 1 - 128) / 2 by omega]
    · rw [show (k - 128) / 2 = (k + 1 - 128) / 2 by omega]

/-! ### Whole emissions -/

theorem runsTo_bmpSBody {s : State} (hp : s.phase = .run) (hst : s.stage = .emitBmp) (hw : scaleOf s.cmdreg = true)
    (ho : s.outcnt = 0) : RunsTo s (finishPrimitive (emitBmpSBody s)) := by
  have h := (emitLoop_bmpScaled hp hst hw).runsTo (bmpScaledFile_length s)
  rwa [emitted_zero ho] at h

theorem runsTo_bmpRBody {s : State} (hp : s.phase = .run) (hst : s.stage = .emitBmp) (hw : scaleOf s.cmdreg = false)
    (ho : s.outcnt = 0) (hr : s.row = 0) (hc : s.col = 0) : RunsTo s (finishPrimitive (emitBmpRBody s)) := by
  have h := (emitLoop_bmpRaw hp hst hw).runsTo (bmpRawFile_length s)
  rw [Nat.zero_sub, place_zero hr hc, emitted_zero ho] at h
  exact h

theorem runsTo_pcxBody {s : State} (hp : s.phase = .run) (hst : s.stage = .emitPcx)
    (ho : s.outcnt = 0) (hr : s.row = 0) (hc : s.col = 0) : RunsTo s (finishPrimitive (emitPcxBody s)) := by
  have h := (emitLoop_pcx hp hst).runsTo (pcxFile_length s)
  rw [Nat.zero_sub, Nat.zero_div, place_zero hr hc, emitted_zero ho] at h
  exact h

/-! ## The end of a primitive -/

theorem finishPrimitive_complete {s : State} (h : nextStage s.cmdreg s.stage = .none) :
    finishPrimitive s = s.complete := by
  rw [finishPrimitive, h]

theorem finishPrimitive_enter {s : State} {st : Stage} (h : nextStage s.cmdreg s.stage = st) (hst : st ≠ .none) :
    finishPrimitive s = enter st s := by
  rw [finishPrimitive, h]
  cases st with
  | none => exact absurd rfl hst
  | load | unpack | upscale | emitBmp | emitPcx => rfl

theorem State.andThen_assoc (s : State) (f g : State → State) :
    (s.andThen f).andThen g = s.andThen fun t => (f t).andThen g := by
  by_cases h : s.phase = .run
  · rw [State.andThen_run _ h, State.andThen_run _ h]
  · rw [State.andThen_stop _ h, State.andThen_stop _ h, State.andThen_stop _ h]

/-- Under the command word `w` the beats of the primitive `st` carry out `prim`: they end in the fault it ends in, or
they end it with `CMDREG` and `STAGE` as they were. -/
def Performs (w : Byte) (st : Stage) (prim : State → State) : Prop :=
  ∀ s : State, s.phase = .run → s.cmdreg = w →
    ((prim s).phase ≠ .run ∧ RunsTo (enter st s) (prim s)) ∨
    ((prim s).phase = .run ∧ (prim s).cmdreg = w ∧ (prim s).stage = st ∧
      RunsTo (enter st s) (finishPrimitive (prim s)))

/-- Under the command word `w` the beats from the entry of the primitive `st` on end where `body` and, unless it
faulted, the completion of the command end. -/
def CarriesOut (w : Byte) (st : Stage) (body : State → State) : Prop :=
  ∀ s : State, s.phase = .run → s.cmdreg = w → RunsTo (enter st s) ((body s).andThen State.complete)

theorem Performs.carriesOut {w : Byte} {st : Stage} {prim : State → State} (h : Performs w st prim)
    (hn : nextStage w st = .none) : CarriesOut w st prim := by
  intro s hp hw
  rcases h s hp hw with ⟨hf, hr⟩ | ⟨hp', hw', hst, hr⟩
  · rwa [State.andThen_stop _ hf]
  · rwa [State.andThen_run _ hp', ← finishPrimitive_complete (by rw [hw', hst, hn])]

theorem Performs.carriesOut_andThen {w : Byte} {st st' : Stage} {prim body : State → State} (h : Performs w st prim)
    (hn : nextStage w st = st') (hst' : st' ≠ .none) (hb : CarriesOut w st' body) :
    CarriesOut w st fun s => (prim s).andThen body := by
  intro s hp hw
  show RunsTo (enter st s) (((prim s).andThen body).andThen State.complete)
  rcases h s hp hw with ⟨hf, hr⟩ | ⟨hp', hw', hst, hr⟩
  · rwa [State.andThen_stop _ hf, State.andThen_stop _ hf]
  · rw [finishPrimitive_enter (by rw [hw', hst, hn]) hst'] at hr
    rw [State.andThen_run _ hp']
    exact hr.trans (hb _ hp' hw')

/-! ## The primitives -/

theorem performs_load (w : Byte) : Performs w .load load := by
  intro s hp hw
  have h0 : place 63 0 (taken 0 (loadEnter s)) = enter .load s := place_taken_zero rfl rfl rfl
  rcases Nat.lt_or_ge s.input.length 4096 with hl | hl
  · refine .inl ?_
    rw [load_short hl, ← h0]
    exact ⟨by simp, runsTo_loadShort hp rfl hl⟩
  · refine .inr ?_
    rw [load_long hl, ← h0]
    exact ⟨hp, hw, rfl, runsTo_loadFull hp rfl hl⟩

/-- A primitive behind gates: they fault and nothing follows, or they pass and leave the state `start` of its loop. -/
theorem performs_of_gate {w : Byte} {st : Stage} {prim start body : State → State}
    (hprim : ∀ s, s.cmdreg = w → prim s = (enter st s).andThen body)
    (hgate : ∀ s, s.phase = .run → s.cmdreg = w →
      (enter st s).phase ≠ .run ∨ enter st s = start (s.enterStage st))
    (hkeep : ∀ s, (start s).phase = s.phase ∧ (body (start s)).phase = s.phase ∧
      (body (start s)).cmdreg = s.cmdreg ∧ (body (start s)).stage = s.stage)
    (hloop : ∀ s, s.phase = .run → s.cmdreg = w → s.stage = st →
      RunsTo (start s) (finishPrimitive (body (start s)))) :
    Performs w st prim := by
  intro s hp hw
  rw [hprim s hw]
  rcases hgate s hp hw with hf | he
  · rw [State.andThen_stop _ hf]
    exact .inl ⟨hf, .refl⟩
  · obtain ⟨hsp, hbp, hbw, hbst⟩ := hkeep (s.enterStage st)
    rw [he, State.andThen_run _ (hsp.trans hp)]
    exact .inr ⟨hbp.trans hp, hbw.trans hw, hbst, hloop _ hp hw rfl⟩

theorem performs_unpack (w : Byte) : Performs w .unpack unpack := by
  refine performs_of_gate (start := unpackStart) (body := unpackBody) (fun _ _ => rfl) (fun s hp _ => ?_)
    (fun s => ⟨rfl, rfl, rfl, rfl⟩) fun s hp _ hst => runsTo_unpackBody hp hst rfl rfl rfl
  cases hv : s.rawV with
  | false => exact .inl (by simp [enter, unpackEnter_invalid hv])
  | true => exact .inr (unpackEnter_ok hp hv)

theorem performs_upscale (w : Byte) : Performs w .upscale upscale := by
  refine performs_of_gate (start := upscaleStart) (body := upscaleBody) (fun _ _ => rfl) (fun s hp _ => ?_)
    (fun s => ⟨rfl, rfl, rfl, rfl⟩) fun s hp _ hst => runsTo_upscaleBody hp hst rfl
  cases hv : s.unpV with
  | false => exact .inl (by simp [enter, upscaleEnter_invalid hv])
  | true => exact .inr (upscaleEnter_ok hp hv)

theorem enter_emitBmp_raw {s : State} (h : scaleOf s.cmdreg = false) : enter .emitBmp s = emitBmpREnter s :=
  if_neg (by simp [h])

theorem enter_emitBmp_scaled {s : State} (h : scaleOf s.cmdreg = true) : enter .emitBmp s = emitBmpSEnter s := if_pos h

theorem performs_emitBmpR {w : Byte} (hw : scaleOf w = false) : Performs w .emitBmp emitBmpR := by
  refine performs_of_gate (start := emitRowsStart) (body := emitBmpRBody)
    (fun s h => by rw [emitBmpR, enter_emitBmp_raw (h ▸ hw)]) (fun s hp h => ?_)
    (fun s => ⟨rfl, rfl, rfl, rfl⟩) fun s hp h hst => runsTo_bmpRBody hp hst (h ▸ hw) rfl rfl rfl
  rw [enter_emitBmp_raw (h ▸ hw)]
  cases hv : s.rawV with
  | false => exact .inl (by simp [emitBmpREnter_invalid hv])
  | true =>
    cases hs : s.sinkOk with
    | false => exact .inl (by simp [emitBmpREnter_refused hp hv hs])
    | true => exact .inr (emitBmpREnter_ok hp hv hs)

theorem performs_emitBmpS {w : Byte} (hw : scaleOf w = true) : Performs w .emitBmp emitBmpS := by
  refine performs_of_gate (start := emitFlatStart) (body := emitBmpSBody)
    (fun s h => by rw [emitBmpS, enter_emitBmp_scaled (h ▸ hw)]) (fun s hp h => ?_)
    (fun s => ⟨rfl, rfl, rfl, rfl⟩) fun s hp h hst => runsTo_bmpSBody hp hst (h ▸ hw) rfl
  rw [enter_emitBmp_scaled (h ▸ hw)]
  cases hv : s.sclV with
  | false => exact .inl (by simp [emitBmpSEnter_invalid hv])
  | true =>
    cases hs : s.sinkOk with
    | false => exact .inl (by simp [emitBmpSEnter_refused hp hv hs])
    | true => exact .inr (emitBmpSEnter_ok hp hv hs)

theorem performs_emitPcx (w : Byte) : Performs w .emitPcx emitPcx := by
  refine performs_of_gate (start := emitRowsStart) (body := emitPcxBody) (fun _ _ => rfl) (fun s hp _ => ?_)
    (fun s => ⟨rfl, rfl, rfl, rfl⟩) fun s hp _ hst => runsTo_pcxBody hp hst rfl rfl rfl
  cases hv : s.rawV with
  | false => exact .inl (by simp [enter, emitPcxEnter_invalid hv])
  | true =>
    cases hs : s.sinkOk with
    | false => exact .inl (by simp [enter, emitPcxEnter_refused hp hv hs])
    | true => exact .inr (emitPcxEnter_ok hp hv hs)

/-! ## The commands -/

theorem carriesOut_convBmpR : CarriesOut (encode .convBmpR) .load convBmpR :=
  (performs_load _).carriesOut_andThen (st' := .emitBmp) (by decide) (by decide)
    ((performs_emitBmpR (by decide)).carriesOut (by decide))

theorem carriesOut_convPcx : CarriesOut (encode .convPcx) .load convPcx :=
  (performs_load _).carriesOut_andThen (st' := .emitPcx) (by decide) (by decide)
    ((performs_emitPcx _).carriesOut (by decide))

theorem carriesOut_convBmpS : CarriesOut (encode .convBmpS) .load convBmpS := by
  have hchain : convBmpS = fun s =>
      (load s).andThen fun s => (unpack s).andThen fun s => (upscale s).andThen emitBmpS := by
    funext s
    rw [convBmpS, State.andThen_assoc, State.andThen_assoc]
  rw [hchain]
  have hemit : CarriesOut (encode .convBmpS) .emitBmp emitBmpS :=
    (performs_emitBmpS (by decide)).carriesOut (by decide)
  have hupscale := (performs_upscale _).carriesOut_andThen (by decide) (by decide) hemit
  have hunpack := (performs_unpack _).carriesOut_andThen (by decide) (by decide) hupscale
  exact (performs_load _).carriesOut_andThen (by decide) (by decide) hunpack

theorem andThen_complete_not_run (s : State) : (s.andThen State.complete).phase ≠ .run := by
  by_cases h : s.phase = .run
  · simp [State.andThen_run _ h]
  · rwa [State.andThen_stop _ h]

/-- A command whose beats carry out its body, begun in an idle block, ends where the whole command ends. -/
theorem CarriesOut.exists_runBeats {w : Byte} {body : State → State} (h : CarriesOut w (firstStage w) body)
    {s : State} (hi : s.phase = .idle) :
    ∃ n t, runBeats n (begin w s) = .next t ∧ t.phase ≠ .run ∧ command w body s = .next t := by
  have hb : begin w s = enter (firstStage w) (s.accept w) := if_pos hi
  obtain ⟨n, hn⟩ := (h (s.accept w) rfl rfl).exists_runBeats
  exact ⟨n, _, hb ▸ hn, andThen_complete_not_run _, command_idle hi⟩

/-- Settles O57: each primitive's beats carry it out, and a command is its primitives in the order `nextStage` gives. -/
theorem beatsCarryOutTheCommand : Obligations.BeatsCarryOutTheCommand := by
  intro i s hi
  cases i with
  | load => exact ((performs_load _).carriesOut (by decide)).exists_runBeats hi
  | unpack => exact ((performs_unpack _).carriesOut (by decide)).exists_runBeats hi
  | upscale => exact ((performs_upscale _).carriesOut (by decide)).exists_runBeats hi
  | emitBmpR => exact ((performs_emitBmpR (by decide)).carriesOut (by decide)).exists_runBeats hi
  | emitBmpS => exact ((performs_emitBmpS (by decide)).carriesOut (by decide)).exists_runBeats hi
  | emitPcx => exact ((performs_emitPcx _).carriesOut (by decide)).exists_runBeats hi
  | convBmpR => exact carriesOut_convBmpR.exists_runBeats hi
  | convBmpS => exact carriesOut_convBmpS.exists_runBeats hi
  | convPcx => exact carriesOut_convPcx.exists_runBeats hi

/-! ## The step -/

/-- Settles O5: an issued word is strobed when no command runs, and the strobe of a word that decodes is its command. -/
theorem stepRunsTheIssuedCommand : Obligations.StepRunsTheIssuedCommand := by
  intro s w i rest hr hp hh hd
  rw [step_cons hr hh, react_issue_not_run hp, strobe, hd]

end Sys2Proof.Machine

/-!
PROOFS. The statements of the state family: what a reset leaves, the two invariants of the block, and the streams. What
every step keeps is proved once for any predicate (`KeptByActs`): it is enough that the host's acts, the start of a command
and one beat keep it, since a whole command ends where its beats end (`beatsCarryOutTheCommand`). Safe and Truthful are
each split into what holds between two primitives (`Ready`, `FlagsTruthful`) and the place of the primitive that runs.
-/

namespace Sys2Proof.Machine

open Sys2Proof.Safety

/-! ## Reset and the status ports -/

/-- Where nothing is listed every cell reads as the free value of the buffer's draw (R22, U7). -/
theorem State.read_unlisted {s : State} {b : Buffer} (h : s.mem b = []) (a : Nat) :
    s.read b a = Config.unwritten (s.drawOf b) b a := by
  rw [State.read, h]; rfl

theorem State.reset_status : State.reset.status = 0x00 := by decide

theorem State.hardReset_status (s : State) : s.hardReset.status = 0x00 := State.reset_status

/-- Settles O10: every register and port of the reset state is a constant, and no cell is listed. -/
theorem resetValues : Obligations.ResetValues := by
  refine ⟨rfl, rfl, rfl, rfl, rfl, rfl, rfl, rfl, rfl, rfl, rfl, rfl, rfl, rfl, rfl, State.reset_status, rfl, rfl, rfl,
    rfl, fun b a => State.read_unlisted ?_ a⟩
  cases b <;> rfl

/-- Settles O11: the step is a hard reset, which leaves the constants of R22 and advances both draws. -/
theorem resetFromAnyState : Obligations.ResetFromAnyState := by
  intro s rest hh
  refine ⟨_, step_rst hh, rfl, rfl, rfl, rfl, rfl, rfl, rfl, rfl, rfl, rfl, rfl, rfl, rfl, rfl, rfl,
    State.hardReset_status _, rfl, rfl, rfl, rfl, rfl, rfl, rfl, rfl, fun b a => ?_⟩
  cases b <;> exact State.read_unlisted rfl a

/-- The bits of a byte put together flag by flag, as `STATUS` is (R14). -/
theorem getLsbD_flagByte : ∀ scl unp raw fault done busy : Bool,
    let w : Byte := (0 : BitVec 2) ++ BitVec.ofBool scl ++ BitVec.ofBool unp ++ BitVec.ofBool raw ++ BitVec.ofBool fault
      ++ BitVec.ofBool done ++ BitVec.ofBool busy
    w.getLsbD 0 = busy ∧ w.getLsbD 1 = done ∧ w.getLsbD 2 = fault ∧ w.getLsbD 3 = raw ∧ w.getLsbD 4 = unp ∧
      w.getLsbD 5 = scl ∧ w.getLsbD 6 = false ∧ w.getLsbD 7 = false := by decide

/-- Settles O12: `STATUS` is the byte of the six flags. -/
theorem statusBits : Obligations.StatusBits := fun s =>
  getLsbD_flagByte s.sclV s.unpV s.rawV s.faulted s.done s.busy

/-! ## How a primitive begins and ends -/

/-- What the entry of the primitive `st` can make of a running `s`: one of its gates faults, or all of them pass and its
loop lies ahead (R44, R46, R50, R58, R59, R64). -/
inductive Entered (s : State) : Stage → State → Prop where
  | fault (st : Stage) (e : Cause) (info : BitVec 16) : Entered s st ((s.enterStage st).raise e info)
  | load : Entered s .load (loadEnter s)
  | unpack (hv : s.rawV = true) : Entered s .unpack (unpackStart (s.enterStage .unpack))
  | upscale (hv : s.unpV = true) : Entered s .upscale (upscaleStart (s.enterStage .upscale))
  | emitBmpR (hw : scaleOf s.cmdreg = false) (hv : s.rawV = true) :
    Entered s .emitBmp (emitRowsStart (s.enterStage .emitBmp))
  | emitBmpS (hw : scaleOf s.cmdreg = true) (hv : s.sclV = true) :
    Entered s .emitBmp (emitFlatStart (s.enterStage .emitBmp))
  | emitPcx (hv : s.rawV = true) : Entered s .emitPcx (emitRowsStart (s.enterStage .emitPcx))

theorem entered_unpackEnter {s : State} (hp : s.phase = .run) : Entered s .unpack (unpackEnter s) := by
  cases hv : s.rawV with
  | false => rw [unpackEnter_invalid hv]; exact .fault ..
  | true => rw [unpackEnter_ok hp hv]; exact .unpack hv

theorem entered_upscaleEnter {s : State} (hp : s.phase = .run) : Entered s .upscale (upscaleEnter s) := by
  cases hv : s.unpV with
  | false => rw [upscaleEnter_invalid hv]; exact .fault ..
  | true => rw [upscaleEnter_ok hp hv]; exact .upscale hv

theorem entered_emitBmpREnter {s : State} (hp : s.phase = .run) (hw : scaleOf s.cmdreg = false) :
    Entered s .emitBmp (emitBmpREnter s) := by
  cases hv : s.rawV with
  | false => rw [emitBmpREnter_invalid hv]; exact .fault ..
  | true =>
    cases hs : s.sinkOk with
    | false => rw [emitBmpREnter_refused hp hv hs]; exact .fault ..
    | true => rw [emitBmpREnter_ok hp hv hs]; exact .emitBmpR hw hv

theorem entered_emitBmpSEnter {s : State} (hp : s.phase = .run) (hw : scaleOf s.cmdreg = true) :
    Entered s .emitBmp (emitBmpSEnter s) := by
  cases hv : s.sclV with
  | false => rw [emitBmpSEnter_invalid hv]; exact .fault ..
  | true =>
    cases hs : s.sinkOk with
    | false => rw [emitBmpSEnter_refused hp hv hs]; exact .fault ..
    | true => rw [emitBmpSEnter_ok hp hv hs]; exact .emitBmpS hw hv

theorem entered_emitPcxEnter {s : State} (hp : s.phase = .run) : Entered s .emitPcx (emitPcxEnter s) := by
  cases hv : s.rawV with
  | false => rw [emitPcxEnter_invalid hv]; exact .fault ..
  | true =>
    cases hs : s.sinkOk with
    | false => rw [emitPcxEnter_refused hp hv hs]; exact .fault ..
    | true => rw [emitPcxEnter_ok hp hv hs]; exact .emitPcx hv

theorem entered_enter {s : State} {st : Stage} (hp : s.phase = .run) (hst : st ≠ .none) :
    Entered s st (enter st s) := by
  cases st with
  | none => exact absurd rfl hst
  | load => exact .load
  | unpack => exact entered_unpackEnter hp
  | upscale => exact entered_upscaleEnter hp
  | emitPcx => exact entered_emitPcxEnter hp
  | emitBmp =>
    cases hw : scaleOf s.cmdreg with
    | false => rw [enter_emitBmp_raw hw]; exact entered_emitBmpREnter hp hw
    | true => rw [enter_emitBmp_scaled hw]; exact entered_emitBmpSEnter hp hw

/-- A primitive's end completes the command or begins the next primitive of the chain (R67 (a)). -/
theorem finishPrimitive_cases {s : State} (hp : s.phase = .run) :
    finishPrimitive s = s.complete ∨ ∃ st, Entered s st (finishPrimitive s) := by
  by_cases hst : nextStage s.cmdreg s.stage = .none
  · exact .inl (finishPrimitive_complete hst)
  · rw [finishPrimitive_enter rfl hst]
    exact .inr ⟨_, entered_enter hp hst⟩

/-- A word that decodes names a primitive to begin with. -/
theorem firstStage_ne_none {w : Byte} {i : Instr} (h : decode w = .ok i) : firstStage w ≠ .none := by
  unfold decode at h
  unfold firstStage chainOf opOf
  simp only at h
  split_ifs at h
  split at h <;> simp_all

/-! ## The beats -/

/-- `ROW` and `COL` moved to `r` and `c`, nothing else changed. -/
def moveTo (r c : BitVec 6) (s : State) : State := { s with row := r, col := c }

theorem advance_eq_moveTo (lastCol : BitVec 6) (s : State) : ∃ r c, advance lastCol s = moveTo r c s := by
  unfold advance
  split_ifs <;> exact ⟨_, _, rfl⟩

/-- Before the last iteration of `for ROW in 0..63: for COL in 0..m-1` the next iteration is one further on. -/
theorem advance_not_last {lastCol : BitVec 6} {m : Nat} (hm : lastCol = 59 ∧ m = 60 ∨ lastCol = 63 ∧ m = 64)
    {s : State} (hcol : s.col.toNat < m) (hlast : ¬atLast lastCol s = true) :
    ∃ r c : BitVec 6, advance lastCol s = moveTo r c s ∧ c.toNat < m ∧
      r.toNat * m + c.toNat = s.row.toNat * m + s.col.toNat + 1 := by
  have hrow := s.row.isLt
  have hlast : ¬(s.row.toNat = 63 ∧ s.col.toNat = lastCol.toNat) := fun ⟨h1, h2⟩ =>
    hlast (by simp [atLast, ← BitVec.toNat_inj, h1, h2])
  unfold advance
  split_ifs with h
  · have hr : (s.row + 1).toNat = s.row.toNat + 1 := by
      rw [h] at hlast
      simp at hlast ⊢
      omega
    refine ⟨_, _, rfl, ?_, ?_⟩
    · rcases hm with ⟨-, rfl⟩ | ⟨-, rfl⟩ <;> decide
    · rw [hr, h]
      rcases hm with ⟨rfl, rfl⟩ | ⟨rfl, rfl⟩ <;> simp <;> omega
  · have h := mt BitVec.eq_of_toNat_eq h
    have hc : (s.col + 1).toNat = s.col.toNat + 1 ∧ s.col.toNat + 1 < m := by
      rcases hm with ⟨rfl, rfl⟩ | ⟨rfl, rfl⟩ <;> simp at h ⊢ <;> omega
    exact ⟨_, _, rfl, by omega, by omega⟩

/-- An emission's work on the byte offered (R43). -/
def emitByte (out : Byte × Bool) (s : State) : State :=
  { s with output := s.output ++ [out], outcnt := s.outcnt + 1 }

theorem emitBeat_some {s : State} {out : Byte × Bool} (h : s.nextOut = some out) :
    emitBeat s = if out.2 then finishPrimitive (emitByte out s)
      else if s.endsIteration then advance 59 (emitByte out s) else emitByte out s := by
  rw [emitBeat, h]; rfl

theorem emitBeat_none {s : State} (h : s.nextOut = none) : emitBeat s = s := by
  rw [emitBeat, h]

/-- The flat emission marks the byte at its last offset (R59). -/
theorem nextOut_scaled {s : State} (hp : s.phase = .run) (hst : s.stage = .emitBmp) (hw : scaleOf s.cmdreg = true) :
    ∃ v, s.nextOut = some (v, decide (s.outcnt.toNat = 276625)) := by
  rw [nextOut_emitBmp hp hst, hw, if_pos rfl]
  split_ifs with h
  · rw [decide_eq_false (by omega)]; exact ⟨_, rfl⟩
  · rw [show (s.outcnt.toNat - 146 == 276479) = decide (s.outcnt.toNat = 276625) by rw [Bool.eq_iff_iff]; simp; omega]
    exact ⟨_, rfl⟩

/-- A row-by-row emission marks the byte that ends the last iteration (R58, R64). -/
theorem nextOut_rows {s : State} (hp : s.phase = .run)
    (hst : s.stage = .emitBmp ∧ scaleOf s.cmdreg = false ∨ s.stage = .emitPcx) :
    ∃ v, s.nextOut = some (v, s.endsIteration && atLast 59 s) := by
  rcases hst with ⟨hst, hw⟩ | hst
  · rw [nextOut_emitBmp hp hst, endsIteration_emitBmp hst, hw, if_neg Bool.false_ne_true]
    split_ifs with h
    · rw [decide_eq_false (Nat.not_le.2 h)]; exact ⟨_, rfl⟩
    · rw [decide_eq_true (Nat.not_lt.1 h)]; exact ⟨_, rfl⟩
  · rw [nextOut_emitPcx hp hst, endsIteration_emitPcx hst]
    split_ifs with h h2
    · rw [decide_eq_false (Nat.not_le.2 h)]; exact ⟨_, rfl⟩
    · rw [h2, Bool.and_comm (decide _)]; exact ⟨_, rfl⟩
    · rw [decide_eq_true (Nat.not_lt.1 h), Nat.mod_two_ne_zero.1 h2]; exact ⟨_, rfl⟩

/-! ## The counters inside their ranges -/

theorem takeByte_incnt {s : State} (h : s.incnt.toNat < 4096) (v : Byte) (rest : List Byte) :
    (takeByte v rest s).incnt.toNat = s.incnt.toNat + 1 := by
  simp [takeByte]; omega

theorem expandByte_idx {s : State} (h : s.idx.toNat + 8 ≤ 30720) : (expandByte s).idx.toNat = s.idx.toNat + 8 := by
  simp [expandByte]; omega

theorem idx_add_one {s : State} (h : s.idx.toNat < 30720) : (s.idx + 1).toNat = s.idx.toNat + 1 := by
  simp; omega

theorem emitByte_outcnt {s : State} (h : s.outcnt.toNat < 276626) (out : Byte × Bool) :
    (emitByte out s).outcnt.toNat = s.outcnt.toNat + 1 := by
  simp [emitByte]; omega

/-- The place of LOAD keeps `INCNT` in its range (R12). -/
theorem incnt_lt_of_place {s : State} (h : s.incnt.toNat = s.row.toNat * 64 + s.col.toNat) : s.incnt.toNat < 4096 := by
  have := s.row.isLt
  have := s.col.isLt
  omega

/-- The place of UNPACK leaves room for eight writes at `IDX` (R12). -/
theorem idx_le_of_place {s : State} (hc : s.col.toNat < 60)
    (h : s.idx.toNat = s.row.toNat * 480 + s.col.toNat * 8) : s.idx.toNat + 8 ≤ 30720 := by
  have := s.row.isLt
  omega

/-! ## What one beat writes -/

/-- Eight writes from `idx` up and nothing else (R46). -/
theorem cell?_byteWrites (m : Memory) (idx : Nat) (v : Byte) (a : Nat) :
    (m.writeAll (byteWrites idx v)).cell? a =
      if idx ≤ a ∧ a < idx + 8 then some (pixelOf v (a - idx)) else m.cell? a := by
  split_ifs with h
  · refine Memory.cell?_writeAll_of_forall m ?_ ?_
    · exact List.mem_map.2 ⟨_, mem_byteWrites.2 ⟨a - idx, by omega, by omega, rfl⟩, rfl⟩
    · rintro ⟨b, u⟩ hw rfl
      obtain ⟨k, -, hb, rfl⟩ := mem_byteWrites.1 hw
      rw [show k = b - idx by omega]
  · refine Memory.cell?_writeAll_of_not_mem m fun hm => ?_
    obtain ⟨⟨b, u⟩, hw, rfl⟩ := List.mem_map.1 hm
    obtain ⟨k, hk, hb, -⟩ := mem_byteWrites.1 hw
    exact h (by dsimp only; omega)

/-- The spread of one source pixel fills its tile, one cell down, and nothing else (R50, R53). -/
theorem cell?_spreadWrites (m : Memory) {idx : Nat} (hi : idx < 30720) (p : Byte) (d : Nat) :
    (m.writeAll (spreadWrites (anchor idx) p)).cell? d =
      if d < 276479 ∧ tileSource (d + 1) = idx then some p else m.cell? d := by
  split_ifs with h
  · obtain ⟨hd, rfl⟩ := h
    obtain ⟨-, δ, hδ, e⟩ := exists_target hd
    refine Memory.cell?_writeAll_of_forall m ?_ fun w hw _ => (mem_spreadWrites.1 hw).1
    exact List.mem_map.2 ⟨_, mem_spreadWrites.2 ⟨rfl, by omega, δ, hδ, e⟩, rfl⟩
  · refine Memory.cell?_writeAll_of_not_mem m fun hm => h ?_
    obtain ⟨⟨b, u⟩, hw, rfl⟩ := List.mem_map.1 hm
    obtain ⟨-, -, δ, hδ, e⟩ := mem_spreadWrites.1 hw
    exact tileSource_target hi hδ e

/-- `START` holds every anchor (R52). -/
theorem toInt_ofInt_anchor {idx : Nat} (hi : idx < 30720) : (BitVec.ofInt 20 (anchor idx)).toInt = anchor idx := by
  rw [BitVec.toInt_ofInt]
  refine Int.bmod_eq_of_le ?_ ?_ <;> unfold anchor <;> omega

/-! ## What every step keeps -/

/-- `P` is kept by everything a step is made of: the host's acts, the start of a command in an idle block, and the beats of
a running one. -/
structure KeptByActs (P : State → Prop) : Prop where
  host : ∀ s rest, P s → P { s with host := rest }
  sink : ∀ s ok, P s → P { s with sinkOk := ok }
  reset : ∀ s, P s → P s.hardReset
  illegal : ∀ s w, s.phase = .idle → P s → P ((s.accept w).raise .illegalCommand (w.setWidth 16))
  start : ∀ s w, s.phase = .idle → firstStage w ≠ .none → P s → P (enter (firstStage w) (s.accept w))
  beat : ∀ s, s.phase = .run → P s → P (beatBody s)

namespace KeptByActs

variable {P : State → Prop}

theorem beat_next (h : KeptByActs P) {s t : State} (hp : s.phase = .run) (hs : P s)
    (ht : Machine.beat s = .next t) : P t := by
  unfold Machine.beat at ht
  split_ifs at ht
  cases ht
  exact h.beat s hp hs

theorem runBeats_next (h : KeptByActs P) {n : Nat} {s t : State} (hs : P s) (ht : runBeats n s = .next t) : P t := by
  induction n generalizing s with
  | zero => cases ht; exact hs
  | succ n ih =>
    by_cases hp : s.phase = .run
    · cases hb : Machine.beat s with
      | next u =>
        rw [runBeats_of_beatsTo ⟨hp, hb⟩] at ht
        exact ih (h.beat_next hp hs hb) ht
      | fault r => simp [runBeats, hp, hb] at ht
      | refused r => simp [runBeats, hp, hb] at ht
    · rw [runBeats, if_neg hp] at ht
      cases ht
      exact hs

theorem begin_next (h : KeptByActs P) {w : Byte} (hw : firstStage w ≠ .none) {s : State} (hs : P s) :
    P (begin w s) := by
  unfold begin
  split_ifs with hi
  · exact h.start s w hi hw hs
  · exact hs

/-- A whole command keeps what its start and its beats keep, since they end where it ends. -/
theorem exec_next (h : KeptByActs P) {i : Instr} {s t : State} (hs : P s) (ht : exec i s = .next t) : P t := by
  by_cases hi : s.phase = .idle
  · obtain ⟨n, u, hu, -, he⟩ := beatsCarryOutTheCommand i s hi
    have hw : firstStage (encode i) ≠ .none := by cases i <;> decide
    rw [he] at ht
    cases ht
    exact h.runBeats_next (h.begin_next hw hs) hu
  · rw [exec_not_idle i hi] at ht
    cases ht
    exact hs

theorem execIllegal_next (h : KeptByActs P) {w : Byte} {s t : State} (hs : P s) (ht : execIllegal w s = .next t) :
    P t := by
  unfold execIllegal at ht
  split_ifs at ht with hi <;> cases ht
  · exact h.illegal s w hi hs
  · exact hs

theorem strobe_next (h : KeptByActs P) {w : Byte} {s t : State} (hs : P s) (ht : strobe w s = .next t) : P t := by
  unfold strobe at ht
  cases hd : decode w with
  | ok i => rw [hd] at ht; exact h.exec_next hs ht
  | error e => rw [hd] at ht; exact h.execIllegal_next hs ht

theorem pulse_next (h : KeptByActs P) {w : Byte} {s t : State} (hs : P s) (ht : pulse w s = .next t) : P t := by
  unfold pulse at ht
  cases hd : decode w with
  | ok i =>
    rw [hd] at ht
    cases ht
    exact h.begin_next (firstStage_ne_none hd) hs
  | error e => rw [hd] at ht; exact h.execIllegal_next hs ht

theorem quiet_next (h : KeptByActs P) {s t : State} (hs : P s) (ht : quiet s = .next t) : P t := by
  unfold quiet at ht
  split_ifs at ht with hp
  · exact h.beat_next hp hs ht
  · cases ht; exact hs

theorem stalled_next (h : KeptByActs P) {s t : State} (hs : P s) (ht : stalled s = .next t) : P t := by
  unfold stalled at ht
  split_ifs at ht
  · cases ht; exact hs
  · exact h.quiet_next hs ht

theorem react_next (h : KeptByActs P) {e : HostEvent} {rest : List HostEvent} {s t : State} (hs : P s)
    (ht : react e rest s = .next t) : P t := by
  have hs' := h.host s rest hs
  cases e with
  | issue w =>
    by_cases hp : s.phase = .run
    · rw [react_issue_run hp] at ht; exact h.beat_next hp hs ht
    · rw [react_issue_not_run hp] at ht; exact h.strobe_next hs' ht
  | pulse w => exact h.pulse_next hs' ht
  | tick => exact h.quiet_next hs' ht
  | stall => exact h.stalled_next hs' ht
  | sink ok => cases ht; exact h.sink _ ok hs'
  | rst => cases ht; exact h.reset _ hs'

/-- What is kept by every act is kept by every step. -/
theorem step_next (h : KeptByActs P) {s t : State} (hs : P s) (ht : step s = .next t) : P t := by
  cases hr : s.resetSeen with
  | true =>
    cases hh : s.host with
    | nil => rw [step_nil hr hh] at ht; exact h.quiet_next hs ht
    | cons e rest => rw [step_cons hr hh] at ht; exact h.react_next hs ht
  | false =>
    by_cases hh : ∃ rest, s.host = .rst :: rest
    · obtain ⟨rest, hh⟩ := hh
      rw [step_rst hh] at ht
      cases ht
      exact h.reset _ (h.host s rest hs)
    · rw [step_before_reset hr fun rest e => hh ⟨rest, e⟩] at ht
      cases ht

end KeptByActs

/-! ## The streams -/

/-- From `s` to `t` bytes were appended to `OUT` and taken from the front of `IN`, and nothing else. -/
def StreamsForward (s t : State) : Prop := (∃ out, t.output = s.output ++ out) ∧ ∃ used, s.input = used ++ t.input

theorem StreamsForward.of_eq {s t : State} (ho : t.output = s.output) (hi : t.input = s.input) : StreamsForward s t :=
  ⟨⟨[], by simp [ho]⟩, ⟨[], by simp [hi]⟩⟩

theorem StreamsForward.trans {s t u : State} : StreamsForward s t → StreamsForward t u → StreamsForward s u := by
  rintro ⟨⟨o, ho⟩, i, hi⟩ ⟨⟨o', ho'⟩, i', hi'⟩
  exact ⟨⟨o ++ o', by simp [ho, ho']⟩, ⟨i ++ i', by simp [hi, hi']⟩⟩

theorem Entered.streamsForward {s t : State} {st : Stage} (h : Entered s st t) : StreamsForward s t := by
  cases h <;> exact .of_eq rfl rfl

theorem streamsForward_finishPrimitive {s : State} (hp : s.phase = .run) : StreamsForward s (finishPrimitive s) := by
  rcases finishPrimitive_cases hp with h | ⟨st, h⟩
  · rw [h]; exact .of_eq rfl rfl
  · exact h.streamsForward

theorem streamsForward_advance (lastCol : BitVec 6) (s : State) : StreamsForward s (advance lastCol s) := by
  obtain ⟨r, c, h⟩ := advance_eq_moveTo lastCol s
  rw [h]
  exact .of_eq rfl rfl

theorem streamsForward_loadBeat {s : State} (hp : s.phase = .run) : StreamsForward s (loadBeat s) := by
  cases hin : s.input with
  | nil => rw [loadBeat_nil hin]; exact .of_eq rfl rfl
  | cons v rest =>
    have hw : StreamsForward s (takeByte v rest s) := ⟨⟨[], by simp [takeByte]⟩, ⟨[v], hin⟩⟩
    rw [loadBeat_cons hin]
    split_ifs
    · exact hw.trans (streamsForward_finishPrimitive (s := { takeByte v rest s with rawV := true }) hp)
    · exact hw.trans (streamsForward_advance ..)

theorem streamsForward_unpackBeat {s : State} (hp : s.phase = .run) : StreamsForward s (unpackBeat s) := by
  rw [unpackBeat_eq]
  split_ifs
  · exact streamsForward_finishPrimitive (s := { expandByte s with unpV := true }) hp
  · exact streamsForward_advance 59 (expandByte s)

theorem streamsForward_upscaleBeat {s : State} (hp : s.phase = .run) : StreamsForward s (upscaleBeat s) := by
  rw [upscaleBeat_eq]
  split_ifs
  · exact streamsForward_finishPrimitive (s := { spreadPixel s with sclV := true }) hp
  · exact .of_eq rfl rfl

theorem streamsForward_emitBeat {s : State} (hp : s.phase = .run) : StreamsForward s (emitBeat s) := by
  cases hn : s.nextOut with
  | none => rw [emitBeat_none hn]; exact .of_eq rfl rfl
  | some out =>
    have hw : StreamsForward s (emitByte out s) := ⟨⟨[out], rfl⟩, ⟨[], rfl⟩⟩
    rw [emitBeat_some hn]
    split_ifs
    · exact hw.trans (streamsForward_finishPrimitive (s := emitByte out s) hp)
    · exact hw.trans (streamsForward_advance ..)
    · exact hw

theorem streamsForward_beatBody {s : State} (hp : s.phase = .run) : StreamsForward s (beatBody s) := by
  unfold beatBody
  split
  · exact .of_eq rfl rfl
  · exact streamsForward_loadBeat hp
  · exact streamsForward_unpackBeat hp
  · exact streamsForward_upscaleBeat hp
  · exact streamsForward_emitBeat hp
  · exact streamsForward_emitBeat hp

theorem keptByActs_streamsForward (s : State) : KeptByActs (StreamsForward s) where
  host _ _ h := h
  sink _ _ h := h
  reset _ h := h
  illegal _ _ _ h := h
  start t w _ hst h := h.trans ((entered_enter (s := t.accept w) rfl hst).streamsForward)
  beat _ hp h := h.trans (streamsForward_beatBody hp)

/-- Settles O58: moving forward is transitive, and every act of the host and every beat moves the streams forward. -/
theorem streamsOnlyMoveForward : Obligations.StreamsOnlyMoveForward := fun s _ ht =>
  (keptByActs_streamsForward s).step_next (.of_eq rfl rfl) ht

end Sys2Proof.Machine

namespace Sys2Proof.Safety

open Sys2Proof.Machine

/-! ## The block stays safe -/

/-- A running safe block, but for the place of its command: what holds between two primitives of a command. -/
structure Ready (s : State) : Prop where
  rawWf : Memory.wf 3840 s.raw
  unpWf : Memory.wf 30720 s.unp
  sclWf : Memory.wf 276480 s.scl
  unpRaw : s.unpV = true → s.rawV = true
  sclUnp : s.sclV = true → s.unpV = true
  phase : s.phase = .run
  done : s.done = false
  err : s.err = 0
  errinfo : s.errinfo = 0

section

variable {s t : State}

theorem Safe.ready (h : Safe s) (hp : s.phase = .run) : Ready s :=
  { h with
    phase := hp
    done := Bool.eq_false_iff.2 fun hd => by simpa [hp] using h.doneIdle hd
    err := (h.run hp).1
    errinfo := (h.run hp).2.1 }

theorem Safe.placed (h : Safe s) (hp : s.phase = .run) : Placed s := (h.run hp).2.2

theorem Safe.accept (h : Safe s) (hi : s.phase = .idle) (w : Byte) : Ready (s.accept w) :=
  { h with
    phase := rfl
    done := rfl
    err := (h.idle hi).2.1
    errinfo := (h.idle hi).2.2 }

theorem Ready.safe (h : Ready s) (hpl : Placed s) : Safe s :=
  { h with
    doneIdle := fun hd => by simp [h.done] at hd
    idle := fun hi => by simp [h.phase] at hi
    run := fun _ => ⟨h.err, h.errinfo, hpl⟩
    fault := fun hf => by simp [h.phase] at hf }

theorem Ready.complete (h : Ready s) : Safe s.complete :=
  { h with
    doneIdle := fun _ => rfl
    idle := fun _ => ⟨rfl, h.err, h.errinfo⟩
    run := fun hr => by simp at hr
    fault := fun hf => by simp at hf }

theorem Ready.raise (h : Ready s) (e : Cause) (info : BitVec 16) : Safe (s.raise e info) :=
  { h with
    doneIdle := fun hd => by simp [h.done] at hd
    idle := fun hi => by simp at hi
    run := fun hr => by simp at hr
    fault := fun _ => by cases e <;> simp [Cause.code] }

/-! ### The place, primitive by primitive -/

theorem placed_load (hst : s.stage = .load) : Placed s ↔
    s.rawV = false ∧ s.unpV = false ∧ s.sclV = false ∧ s.incnt.toNat = s.row.toNat * 64 + s.col.toNat := by
  rw [Placed, hst]

theorem placed_unpack (hst : s.stage = .unpack) : Placed s ↔
    s.rawV = true ∧ s.unpV = false ∧ s.sclV = false ∧ s.col.toNat < 60 ∧
      s.idx.toNat = s.row.toNat * 480 + s.col.toNat * 8 := by
  rw [Placed, hst]

theorem placed_upscale (hst : s.stage = .upscale) : Placed s ↔
    s.unpV = true ∧ s.sclV = false ∧ s.idx.toNat < 30720 := by
  rw [Placed, hst]

theorem placed_emitBmpS (hst : s.stage = .emitBmp) (hw : scaleOf s.cmdreg = true) : Placed s ↔
    s.sclV = true ∧ s.outcnt.toNat < 276626 := by
  rw [Placed, hst]; simp only [hw, if_true]

theorem placed_emitBmpR (hst : s.stage = .emitBmp) (hw : scaleOf s.cmdreg = false) : Placed s ↔
    s.rawV = true ∧ s.col.toNat < 60 ∧
      (s.outcnt.toNat < 146 ∧ s.row = 0 ∧ s.col = 0 ∨ s.outcnt.toNat = 146 + s.row.toNat * 60 + s.col.toNat) := by
  rw [Placed, hst]; simp only [hw, Bool.false_eq_true, if_false]

theorem placed_emitPcx (hst : s.stage = .emitPcx) : Placed s ↔
    s.rawV = true ∧ s.col.toNat < 60 ∧
      (s.outcnt.toNat < 128 ∧ s.row = 0 ∧ s.col = 0 ∨
        (s.outcnt.toNat = 128 + 2 * (s.row.toNat * 60 + s.col.toNat) ∨
          s.outcnt.toNat = 129 + 2 * (s.row.toNat * 60 + s.col.toNat))) := by
  rw [Placed, hst]

/-! ### Beginning and ending a primitive -/

theorem Ready.enterStage (h : Ready s) (st : Stage) : Ready (s.enterStage st) := { h with }

theorem Ready.emitRowsStart (h : Ready s) : Ready (emitRowsStart s) := { h with }

theorem Ready.emitFlatStart (h : Ready s) : Ready (emitFlatStart s) := { h with }

theorem Ready.loadEnter (h : Ready s) : Ready (loadEnter s) := { h with unpRaw := by simp, sclUnp := by simp }

theorem Ready.unpackStart (h : Ready s) : Ready (unpackStart s) := { h with unpRaw := by simp, sclUnp := by simp }

theorem Ready.upscaleStart (h : Ready s) : Ready (upscaleStart s) :=
  { h with
    sclWf := by rw [upscaleStart_scl]; exact Memory.wf_writeAll h.sclWf clearWrites_lt
    sclUnp := by simp }

theorem Ready.entered {st : Stage} (h : Ready s) (he : Entered s st t) : Safe t := by
  have hst := h.enterStage st
  cases he with
  | fault st e info => exact hst.raise e info
  | load => exact h.loadEnter.safe ((placed_load (by rfl)).2 (by simp))
  | unpack hv => exact hst.unpackStart.safe ((placed_unpack (by rfl)).2 (by simp [hv]))
  | upscale hv => exact hst.upscaleStart.safe ((placed_upscale (by rfl)).2 (by simp [hv]))
  | emitBmpR hw hv => exact hst.emitRowsStart.safe ((placed_emitBmpR (by rfl) (by exact hw)).2 (by simp [hv]))
  | emitBmpS hw hv => exact hst.emitFlatStart.safe ((placed_emitBmpS (by rfl) (by exact hw)).2 (by simp [hv]))
  | emitPcx hv => exact hst.emitRowsStart.safe ((placed_emitPcx (by rfl)).2 (by simp [hv]))

theorem Ready.finishPrimitive (h : Ready s) : Safe (finishPrimitive s) := by
  rcases finishPrimitive_cases h.phase with he | ⟨st, he⟩
  · rw [he]; exact h.complete
  · exact h.entered he

/-! ### The beats -/

theorem Ready.moveTo (h : Ready s) (r c : BitVec 6) : Ready (moveTo r c s) := { h with }

theorem Ready.takeByte (h : Ready s) (v : Byte) (rest : List Byte) : Ready (takeByte v rest s) :=
  { h with
    rawWf := by
      unfold Machine.takeByte
      dsimp only
      split_ifs with hc
      · exact Memory.wf_write h.rawWf (by have := s.row.isLt; unfold rawIndex; omega) v
      · exact h.rawWf }

theorem Ready.expandByte (h : Ready s) (hi : s.idx.toNat + 8 ≤ 30720) : Ready (expandByte s) :=
  { h with
    unpWf := Memory.wf_writeAll h.unpWf fun ⟨a, u⟩ hw => by
      obtain ⟨k, hk, rfl, -⟩ := mem_byteWrites.1 hw
      dsimp only
      omega }

theorem Ready.spreadPixel (h : Ready s) : Ready (spreadPixel s) :=
  { h with sclWf := Memory.wf_writeAll h.sclWf (spreadWrites_lt _ _) }

theorem Ready.emitByte (h : Ready s) (out : Byte × Bool) : Ready (emitByte out s) := { h with }

theorem Safe.loadBeat (h : Safe s) (hp : s.phase = .run) (hst : s.stage = .load) : Safe (loadBeat s) := by
  obtain ⟨hrv, huv, hsv, hcnt⟩ := (placed_load hst).1 (h.placed hp)
  cases hin : s.input with
  | nil =>
    have hf : Ready s.forgetRaw := { h.ready hp with rawWf := by simp [Memory.wf] }
    rw [loadBeat_nil hin]
    exact hf.raise ..
  | cons v rest =>
    have hw : Ready (takeByte v rest s) := (h.ready hp).takeByte v rest
    rw [loadBeat_cons hin]
    split_ifs with hl
    · have hend : Ready { takeByte v rest s with rawV := true } := { hw with unpRaw := fun _ => rfl }
      exact hend.finishPrimitive
    · obtain ⟨r, c, hadv, -, hpos⟩ := advance_not_last (s := takeByte v rest s) (.inr ⟨rfl, rfl⟩) s.col.isLt hl
      rw [hadv]
      refine (hw.moveTo r c).safe ((placed_load (by exact hst)).2 ⟨hrv, huv, hsv, ?_⟩)
      exact (takeByte_incnt (incnt_lt_of_place hcnt) v rest).trans (by rw [hcnt]; exact hpos.symm)

theorem Safe.unpackBeat (h : Safe s) (hp : s.phase = .run) (hst : s.stage = .unpack) : Safe (unpackBeat s) := by
  obtain ⟨hrv, huv, hsv, hcol, hidx⟩ := (placed_unpack hst).1 (h.placed hp)
  have hroom := idx_le_of_place hcol hidx
  have hw : Ready (expandByte s) := (h.ready hp).expandByte hroom
  rw [unpackBeat_eq]
  split_ifs with hl
  · have hend : Ready { expandByte s with unpV := true } :=
      { hw with unpRaw := fun _ => hrv, sclUnp := fun _ => rfl }
    exact hend.finishPrimitive
  · obtain ⟨r, c, hadv, hc, hpos⟩ := advance_not_last (s := expandByte s) (.inl ⟨rfl, rfl⟩) hcol hl
    have hpos : r.toNat * 60 + c.toNat = s.row.toNat * 60 + s.col.toNat + 1 := hpos
    rw [hadv]
    refine (hw.moveTo r c).safe ((placed_unpack (by exact hst)).2 ⟨hrv, huv, hsv, hc, ?_⟩)
    exact (expandByte_idx hroom).trans (by show _ = r.toNat * 480 + c.toNat * 8; omega)

theorem Safe.upscaleBeat (h : Safe s) (hp : s.phase = .run) (hst : s.stage = .upscale) : Safe (upscaleBeat s) := by
  obtain ⟨huv, hsv, hidx⟩ := (placed_upscale hst).1 (h.placed hp)
  have hw : Ready (spreadPixel s) := (h.ready hp).spreadPixel
  rw [upscaleBeat_eq]
  split_ifs with hl
  · have hend : Ready { spreadPixel s with sclV := true } := { hw with sclUnp := fun _ => huv }
    exact hend.finishPrimitive
  · have hnext : Ready { spreadPixel s with idx := s.idx + 1 } := { hw with }
    have hl : s.idx.toNat ≠ 30719 := fun e => hl (BitVec.eq_of_toNat_eq e)
    refine hnext.safe ((placed_upscale (by exact hst)).2 ⟨huv, hsv, ?_⟩)
    show (s.idx + 1).toNat < 30720
    rw [idx_add_one hidx]
    omega

theorem Safe.emitBeat_scaled (h : Safe s) (hp : s.phase = .run) (hst : s.stage = .emitBmp)
    (hw : scaleOf s.cmdreg = true) : Safe (emitBeat s) := by
  obtain ⟨hsv, hcnt⟩ := (placed_emitBmpS hst hw).1 (h.placed hp)
  obtain ⟨v, hn⟩ := nextOut_scaled hp hst hw
  have hr := (h.ready hp).emitByte (v, decide (s.outcnt.toNat = 276625))
  have hflat : ¬s.endsIteration = true := by rw [endsIteration_emitBmp hst, hw]; simp
  rw [emitBeat_some hn, if_neg hflat]
  split_ifs with hl
  · exact hr.finishPrimitive
  · refine hr.safe ((placed_emitBmpS (by exact hst) (by exact hw)).2 ⟨hsv, ?_⟩)
    have hl : s.outcnt.toNat ≠ 276625 := by simpa using hl
    rw [emitByte_outcnt hcnt]
    omega

/-- A beat of a row-by-row emission, given its place after a byte inside an iteration and after one that ends it. -/
theorem Safe.emitBeat_rows (h : Safe s) (hp : s.phase = .run)
    (hst : s.stage = .emitBmp ∧ scaleOf s.cmdreg = false ∨ s.stage = .emitPcx) (hcol : s.col.toNat < 60)
    (hin : ∀ out, s.endsIteration = false → Placed (emitByte out s))
    (hend : ∀ out r c, s.endsIteration = true → c.toNat < 60 →
      r.toNat * 60 + c.toNat = s.row.toNat * 60 + s.col.toNat + 1 → Placed (moveTo r c (emitByte out s))) :
    Safe (emitBeat s) := by
  obtain ⟨v, hn⟩ := nextOut_rows hp hst
  have hr := (h.ready hp).emitByte (v, s.endsIteration && atLast 59 s)
  rw [emitBeat_some hn]
  cases he : s.endsIteration with
  | false => rw [he] at hr; exact hr.safe (hin _ he)
  | true =>
    rw [he] at hr
    rw [if_pos rfl]
    split_ifs with hl
    · exact hr.finishPrimitive
    · obtain ⟨r, c, hadv, hc, hpos⟩ := advance_not_last (s := emitByte (v, true && atLast 59 s) s)
        (.inl ⟨rfl, rfl⟩) hcol hl
      rw [hadv]
      exact (hr.moveTo r c).safe (hend _ r c he hc hpos)

theorem Safe.emitBeat_raw (h : Safe s) (hp : s.phase = .run) (hst : s.stage = .emitBmp)
    (hw : scaleOf s.cmdreg = false) : Safe (emitBeat s) := by
  obtain ⟨hrv, hcol, hcnt⟩ := (placed_emitBmpR hst hw).1 (h.placed hp)
  have hrow := s.row.isLt
  have hi : s.endsIteration = decide (146 ≤ s.outcnt.toNat) := by rw [endsIteration_emitBmp hst, hw]; rfl
  refine h.emitBeat_rows hp (.inl ⟨hst, hw⟩) hcol (fun out he => ?_) fun out r c he hc hpos => ?_
  · rw [hi, decide_eq_false_iff_not] at he
    obtain ⟨hlt, hr0, hc0⟩ := hcnt.resolve_right (by omega)
    have ho := emitByte_outcnt (s := s) (by omega) out
    refine (placed_emitBmpR (by exact hst) (by exact hw)).2 ⟨hrv, hcol, ?_⟩
    rcases Nat.lt_or_ge (s.outcnt.toNat + 1) 146 with h1 | h1
    · exact .inl ⟨ho ▸ h1, hr0, hc0⟩
    · refine .inr (ho.trans ?_)
      rw [show (emitByte out s).row = 0 from hr0, show (emitByte out s).col = 0 from hc0]
      exact Nat.le_antisymm hlt h1
  · rw [hi, decide_eq_true_iff] at he
    have ho := emitByte_outcnt (s := s) (by omega) out
    refine (placed_emitBmpR (by exact hst) (by exact hw)).2 ⟨hrv, hc, .inr (ho.trans ?_)⟩
    show _ = 146 + r.toNat * 60 + c.toNat
    omega

theorem Safe.emitBeat_pcx (h : Safe s) (hp : s.phase = .run) (hst : s.stage = .emitPcx) : Safe (emitBeat s) := by
  obtain ⟨hrv, hcol, hcnt⟩ := (placed_emitPcx hst).1 (h.placed hp)
  have hrow := s.row.isLt
  have hi : s.endsIteration = true ↔ 128 ≤ s.outcnt.toNat ∧ (s.outcnt.toNat - 128) % 2 = 1 := by
    rw [endsIteration_emitPcx hst]; simp
  refine h.emitBeat_rows hp (.inr hst) hcol (fun out he => ?_) fun out r c he hc hpos => ?_
  · rw [← Bool.not_eq_true, hi] at he
    have ho := emitByte_outcnt (s := s) (by omega) out
    refine (placed_emitPcx (by exact hst)).2 ⟨hrv, hcol, ?_⟩
    rw [ho]
    show _ ∧ s.row = 0 ∧ s.col = 0 ∨ _ = 128 + 2 * (s.row.toNat * 60 + s.col.toNat) ∨
      _ = 129 + 2 * (s.row.toNat * 60 + s.col.toNat)
    rcases hcnt with ⟨hlt, hr0, hc0⟩ | hcnt
    · rw [hr0, hc0]
      simp
      omega
    · omega
  · rw [hi] at he
    have ho := emitByte_outcnt (s := s) (by omega) out
    refine (placed_emitPcx (by exact hst)).2 ⟨hrv, hc, .inr (.inl (ho.trans ?_))⟩
    show _ = 128 + 2 * (r.toNat * 60 + c.toNat)
    omega

theorem Safe.beatBody (h : Safe s) (hp : s.phase = .run) : Safe (beatBody s) := by
  unfold Machine.beatBody
  split
  next => exact h
  next hst => exact h.loadBeat hp hst
  next hst => exact h.unpackBeat hp hst
  next hst => exact h.upscaleBeat hp hst
  next hst =>
    cases hw : scaleOf s.cmdreg with
    | false => exact h.emitBeat_raw hp hst hw
    | true => exact h.emitBeat_scaled hp hst hw
  next hst => exact h.emitBeat_pcx hp hst

theorem safe_hardReset (s : State) : Safe s.hardReset where
  rawWf := State.reset_wf.1
  unpWf := State.reset_wf.2.1
  sclWf := State.reset_wf.2.2
  unpRaw hv := by simp at hv
  sclUnp hv := by simp at hv
  doneIdle _ := rfl
  idle _ := ⟨rfl, rfl, rfl⟩
  run hr := by simp at hr
  fault hf := by simp at hf

end

theorem keptByActs_safe : KeptByActs Safe where
  host _ _ h := { h with }
  sink _ _ h := { h with }
  reset s _ := safe_hardReset s
  illegal _ w hi h := (h.accept hi w).raise ..
  start _ w hi hst h := (h.accept hi w).entered (entered_enter rfl hst)
  beat _ hp h := h.beatBody hp

/-- Settles O53: every act of the host and every beat keeps `Safe`. -/
theorem everyStepKeepsTheBlockSafe : Obligations.EveryStepKeepsTheBlockSafe := fun _ _ h ht =>
  keptByActs_safe.step_next h ht

/-- The place of a running command lies in the ranges of R12. -/
theorem Safe.inRange {s : State} (h : Safe s) (hp : s.phase = .run) : s.inRange = true := by
  have hpl := h.placed hp
  have hrow := s.row.isLt
  cases hst : s.stage with
  | none => simp [Placed, hst] at hpl
  | load =>
    obtain ⟨-, -, -, hcnt⟩ := (placed_load hst).1 hpl
    simpa [State.inRange, hst] using incnt_lt_of_place hcnt
  | unpack =>
    obtain ⟨-, -, -, hcol, hidx⟩ := (placed_unpack hst).1 hpl
    have := idx_le_of_place hcol hidx
    simpa [State.inRange, hst, hcol] using by omega
  | upscale =>
    obtain ⟨-, -, hidx⟩ := (placed_upscale hst).1 hpl
    simpa [State.inRange, hst] using hidx
  | emitBmp =>
    rw [inRange_emitBmp hst]
    cases hw : scaleOf s.cmdreg with
    | false =>
      obtain ⟨-, hcol, hcnt⟩ := (placed_emitBmpR hst hw).1 hpl
      have : s.outcnt.toNat < 3986 := by omega
      simp [hcol, this]
    | true =>
      obtain ⟨-, hcnt⟩ := (placed_emitBmpS hst hw).1 hpl
      simp [hcnt]
  | emitPcx =>
    obtain ⟨-, hcol, hcnt⟩ := (placed_emitPcx hst).1 hpl
    have : s.outcnt.toNat < 7808 := by omega
    rw [inRange_emitPcx hst]
    simp [hcol, this]

theorem Safe.quiet_answers_next {s : State} (h : Safe s) : ∃ t, quiet s = .next t := by
  by_cases hp : s.phase = .run
  · exact ⟨_, (quiet_run hp).trans (beat_inRange (h.inRange hp))⟩
  · exact ⟨_, quiet_not_run hp⟩

theorem Safe.react_answers_next {s : State} (h : Safe s) (e : HostEvent) (rest : List HostEvent) :
    ∃ t, react e rest s = .next t := by
  have h' : Safe { s with host := rest } := keptByActs_safe.host s rest h
  cases e with
  | issue w =>
    by_cases hp : s.phase = .run
    · exact ⟨_, (react_issue_run hp).trans (beat_inRange (h.inRange hp))⟩
    · rw [react_issue_not_run hp]
      exact strobe_answers_next ..
  | pulse w => exact pulse_answers_next ..
  | tick => exact h'.quiet_answers_next
  | stall =>
    show ∃ t, stalled _ = .next t
    unfold stalled
    split_ifs
    · exact ⟨_, rfl⟩
    · exact h'.quiet_answers_next
  | sink ok => exact ⟨_, rfl⟩
  | rst => exact ⟨_, rfl⟩

/-- Settles O54: the only stop after the first reset is a beat out of range, and a safe beat is in range. -/
theorem safeBlockNeverStops : Obligations.SafeBlockNeverStops := by
  intro s h hr
  cases hh : s.host with
  | nil => rw [step_nil hr hh]; exact h.quiet_answers_next
  | cons e rest => rw [step_cons hr hh]; exact h.react_answers_next e rest

/-- Settles O13: `DONE` stands only while idle, and the phase is one value. -/
theorem atMostOneOfBusyDoneFault : Obligations.AtMostOneOfBusyDoneFault := by
  intro s h
  simp only [State.busy, State.faulted, beq_iff_eq]
  refine ⟨fun ⟨hr, hd⟩ => ?_, fun ⟨hr, hf⟩ => ?_, fun ⟨hd, hf⟩ => ?_⟩
  · exact absurd (hr.symm.trans (h.doneIdle hd)) (by decide)
  · exact absurd (hr.symm.trans hf) (by decide)
  · exact absurd (hf.symm.trans (h.doneIdle hd)) (by decide)

/-! ## The valid flags stay truthful -/

/-- The set valid flags tell the truth (R13): `Truthful` but for the progress of a running command. -/
structure FlagsTruthful (s : State) : Prop where
  raw : s.rawV = true → ∀ a < 3840, (s.raw.cell? a).isSome
  unp : s.unpV = true → ∀ a < 30720, s.unp.cell? a = some (unpackedCell s a)
  scl : s.sclV = true → ∀ d < 276480, s.scl.cell? d = some (spreadCell s 30720 d)

section

variable {s t : State}

theorem Truthful.flags (h : Truthful s) : FlagsTruthful s := { h with }

theorem FlagsTruthful.truthful (h : FlagsTruthful s) (hrun : s.phase = .run → Progress s) : Truthful s :=
  { h with run := hrun }

theorem FlagsTruthful.stopped (h : FlagsTruthful s) (hp : s.phase ≠ .run) : Truthful s :=
  h.truthful fun hr => absurd hr hp

/-- No flag, nothing to tell. -/
theorem flagsTruthful_of_clear (hr : s.rawV = false) (hu : s.unpV = false) (hs : s.sclV = false) : FlagsTruthful s where
  raw h := by simp [hr] at h
  unp h := by simp [hu] at h
  scl h := by simp [hs] at h

theorem progress_load (hst : s.stage = .load) : Progress s ↔
    ∀ k < s.incnt.toNat, k % 64 < 60 → (s.raw.cell? (rawIndex (k / 64) (k % 64))).isSome := by
  rw [Progress, hst]

theorem progress_unpack (hst : s.stage = .unpack) : Progress s ↔
    ∀ a < s.idx.toNat, s.unp.cell? a = some (unpackedCell s a) := by
  rw [Progress, hst]

theorem progress_upscale (hst : s.stage = .upscale) : Progress s ↔
    (∀ d < 276480, s.scl.cell? d = some (spreadCell s s.idx.toNat d)) ∧
      (s.idx.toNat % 480 ≠ 0 → s.start.toInt = anchor (s.idx.toNat - 1)) := by
  rw [Progress, hst]

theorem progress_emit (hst : s.stage = .emitBmp ∨ s.stage = .emitPcx) : Progress s := by
  rcases hst with hst | hst <;> rw [Progress, hst] <;> trivial

theorem spreadCell_zero (s : State) (d : Nat) : spreadCell s 0 d = 0x00 := if_neg fun h => Nat.not_lt_zero _ h.2

theorem spreadCell_succ (s : State) (n d : Nat) :
    spreadCell s (n + 1) d =
      if d < 276479 ∧ tileSource (d + 1) = n then s.read .unp n else spreadCell s n d := by
  unfold spreadCell
  split_ifs with h1 h2 h3 h3
  · rw [h2.2]
  · rfl
  · omega
  · omega
  · omega
  · rfl

theorem FlagsTruthful.entered {st : Stage} (h : FlagsTruthful s) (he : Entered s st t) : Truthful t := by
  cases he with
  | fault st e info =>
    have hf : FlagsTruthful ((s.enterStage st).raise e info) := { h with }
    exact hf.stopped (by simp)
  | load => exact (flagsTruthful_of_clear rfl rfl rfl).truthful fun _ => (progress_load rfl).2 (by simp)
  | unpack hv =>
    have hf : FlagsTruthful (unpackStart (s.enterStage .unpack)) := { h with unp := by simp, scl := by simp }
    exact hf.truthful fun _ => (progress_unpack (by rfl)).2 (by simp)
  | upscale hv =>
    have hf : FlagsTruthful (upscaleStart (s.enterStage .upscale)) := { h with scl := by simp }
    refine hf.truthful fun _ => (progress_upscale (by rfl)).2 ⟨fun d hd => ?_, by simp⟩
    rw [upscaleStart_scl, cell?_clearWrites _ hd]
    exact congrArg some (spreadCell_zero _ d).symm
  | emitBmpR hw hv =>
    have hf : FlagsTruthful (emitRowsStart (s.enterStage .emitBmp)) := { h with }
    exact hf.truthful fun _ => progress_emit (.inl rfl)
  | emitBmpS hw hv =>
    have hf : FlagsTruthful (emitFlatStart (s.enterStage .emitBmp)) := { h with }
    exact hf.truthful fun _ => progress_emit (.inl rfl)
  | emitPcx hv =>
    have hf : FlagsTruthful (emitRowsStart (s.enterStage .emitPcx)) := { h with }
    exact hf.truthful fun _ => progress_emit (.inr rfl)

theorem FlagsTruthful.finishPrimitive (h : FlagsTruthful s) (hp : s.phase = .run) : Truthful (finishPrimitive s) := by
  rcases finishPrimitive_cases hp with he | ⟨st, he⟩
  · have hf : FlagsTruthful s.complete := { h with }
    rw [he]
    exact hf.stopped (by simp)
  · exact h.entered he

/-- One more byte of the frame is stored (R44). -/
theorem isSome_takeByte (hcnt : s.incnt.toNat = s.row.toNat * 64 + s.col.toNat)
    (hprog : ∀ k < s.incnt.toNat, k % 64 < 60 → (s.raw.cell? (rawIndex (k / 64) (k % 64))).isSome)
    (v : Byte) (rest : List Byte) {k : Nat} (hk : k < s.incnt.toNat + 1) (h : k % 64 < 60) :
    ((takeByte v rest s).raw.cell? (rawIndex (k / 64) (k % 64))).isSome := by
  have hcol := s.col.isLt
  unfold takeByte
  dsimp only
  rcases Nat.lt_succ_iff_lt_or_eq.1 hk with hlt | rfl
  · split_ifs
    · rw [Memory.cell?_write]
      split_ifs
      · rfl
      · exact hprog k hlt h
    · exact hprog k hlt h
  · have hc : s.incnt.toNat % 64 = s.col.toNat := by omega
    rw [show s.incnt.toNat / 64 = s.row.toNat by omega, hc, if_pos (hc ▸ h), Memory.cell?_write_self]
    rfl

/-- A whole frame fills `RAW` (R44, R45). -/
theorem isSome_of_frame {m : Memory} (h : ∀ k < 4096, k % 64 < 60 → (m.cell? (rawIndex (k / 64) (k % 64))).isSome) :
    ∀ a < 3840, (m.cell? a).isSome := by
  intro a ha
  have hk := h (a / 60 * 64 + a % 60) (by omega) (by omega)
  rwa [show rawIndex ((a / 60 * 64 + a % 60) / 64) ((a / 60 * 64 + a % 60) % 64) = a by unfold rawIndex; omega] at hk

theorem Truthful.loadBeat (h : Truthful s) (hs : Safe s) (hp : s.phase = .run) (hst : s.stage = .load) :
    Truthful (loadBeat s) := by
  obtain ⟨hrv, huv, hsv, hcnt⟩ := (placed_load hst).1 (hs.placed hp)
  cases hin : s.input with
  | nil =>
    rw [loadBeat_nil hin]
    exact (flagsTruthful_of_clear (by exact hrv) (by exact huv) (by exact hsv)).stopped (by simp)
  | cons v rest =>
    have hprog k := isSome_takeByte hcnt ((progress_load hst).1 (h.run hp)) v rest (k := k)
    have hinc := takeByte_incnt (incnt_lt_of_place hcnt) v rest
    rw [loadBeat_cons hin]
    split_ifs with hl
    · have hlast : s.incnt.toNat + 1 = 4096 := by
        simp only [atLast, Bool.and_eq_true, beq_iff_eq] at hl
        rw [hcnt, hl.1, hl.2]; rfl
      have hf : FlagsTruthful { takeByte v rest s with rawV := true } :=
        { raw := fun _ => isSome_of_frame (hlast ▸ hprog)
          unp := fun hu => by simp [takeByte, huv] at hu
          scl := fun hs => by simp [takeByte, hsv] at hs }
      exact hf.finishPrimitive hp
    · obtain ⟨r, c, hadv⟩ := advance_eq_moveTo 63 (takeByte v rest s)
      rw [hadv]
      refine (flagsTruthful_of_clear (by exact hrv) (by exact huv) (by exact hsv)).truthful fun _ => ?_
      exact (progress_load (by exact hst)).2 (hinc.symm ▸ hprog)

/-- The pixels of the packed byte UNPACK is at (R24, R46). -/
theorem unpackedCell_eq_pixelOf (hcol : s.col.toNat < 60) (hidx : s.idx.toNat = s.row.toNat * 480 + s.col.toNat * 8)
    {a : Nat} (hlo : s.idx.toNat ≤ a) (hhi : a < s.idx.toNat + 8) :
    unpackedCell s a = pixelOf (s.read .raw (rawIndex (63 - s.row.toNat) s.col.toNat)) (a - s.idx.toNat) := by
  rw [pixelOf_eq _ (by omega), unpackedCell, State.bitGrid, show a / 480 = s.row.toNat by omega,
    show a % 480 / 8 = s.col.toNat by omega, show a % 480 % 8 = a - s.idx.toNat by omega]

/-- Eight more pixels are unpacked (R46). -/
theorem cell?_expandByte (hcol : s.col.toNat < 60) (hidx : s.idx.toNat = s.row.toNat * 480 + s.col.toNat * 8)
    (hprog : ∀ a < s.idx.toNat, s.unp.cell? a = some (unpackedCell s a)) {a : Nat} (ha : a < s.idx.toNat + 8) :
    (expandByte s).unp.cell? a = some (unpackedCell s a) := by
  refine (cell?_byteWrites ..).trans ?_
  split_ifs with h
  · rw [unpackedCell_eq_pixelOf hcol hidx h.1 h.2]
  · exact hprog a (by omega)

theorem Truthful.unpackBeat (h : Truthful s) (hs : Safe s) (hp : s.phase = .run) (hst : s.stage = .unpack) :
    Truthful (unpackBeat s) := by
  obtain ⟨hrv, huv, hsv, hcol, hidx⟩ := (placed_unpack hst).1 (hs.placed hp)
  have hprog a := cell?_expandByte hcol hidx ((progress_unpack hst).1 (h.run hp)) (a := a)
  have hnext := expandByte_idx (idx_le_of_place hcol hidx)
  rw [unpackBeat_eq]
  split_ifs with hl
  · have hlast : s.idx.toNat + 8 = 30720 := by
      simp only [atLast, Bool.and_eq_true, beq_iff_eq] at hl
      rw [hidx, hl.1, hl.2]; rfl
    have hf : FlagsTruthful { expandByte s with unpV := true } :=
      { raw := h.raw
        unp := fun _ => hlast ▸ hprog
        scl := fun hs => by simp [expandByte, hsv] at hs }
    exact hf.finishPrimitive hp
  · obtain ⟨r, c, hadv⟩ := advance_eq_moveTo 59 (expandByte s)
    rw [hadv]
    have hf : FlagsTruthful (moveTo r c (expandByte s)) :=
      { raw := h.raw
        unp := fun hu => by simp [moveTo, expandByte, huv] at hu
        scl := fun hs => by simp [moveTo, expandByte, hsv] at hs }
    exact hf.truthful fun _ => (progress_unpack (by exact hst)).2 (hnext.symm ▸ hprog)

/-- One more source pixel is spread (R50). -/
theorem cell?_spreadPixel (hidx : s.idx.toNat < 30720)
    (hprog : ∀ d < 276480, s.scl.cell? d = some (spreadCell s s.idx.toNat d))
    (hstart : s.idx.toNat % 480 ≠ 0 → s.start.toInt = anchor (s.idx.toNat - 1)) {d : Nat} (hd : d < 276480) :
    (spreadPixel s).scl.cell? d = some (spreadCell s (s.idx.toNat + 1) d) := by
  rw [spreadPixel, nextStart_anchor hstart]
  refine (cell?_spreadWrites _ hidx _ d).trans ?_
  rw [spreadCell_succ, hprog d hd]
  split_ifs <;> rfl

theorem Truthful.upscaleBeat (h : Truthful s) (hs : Safe s) (hp : s.phase = .run) (hst : s.stage = .upscale) :
    Truthful (upscaleBeat s) := by
  obtain ⟨huv, hsv, hidx⟩ := (placed_upscale hst).1 (hs.placed hp)
  obtain ⟨hcells, hstart⟩ := (progress_upscale hst).1 (h.run hp)
  have hprog d := cell?_spreadPixel hidx hcells hstart (d := d)
  rw [upscaleBeat_eq]
  split_ifs with hl
  · have hlast : s.idx.toNat + 1 = 30720 := by rw [hl]; rfl
    have hf : FlagsTruthful { spreadPixel s with sclV := true } :=
      { raw := h.raw
        unp := h.unp
        scl := fun _ => hlast ▸ hprog }
    exact hf.finishPrimitive hp
  · have hf : FlagsTruthful { spreadPixel s with idx := s.idx + 1 } :=
      { raw := h.raw
        unp := h.unp
        scl := fun hs => by simp [spreadPixel, hsv] at hs }
    refine hf.truthful fun _ => (progress_upscale (by exact hst)).2 ⟨(idx_add_one hidx).symm ▸ hprog, fun _ => ?_⟩
    show (BitVec.ofInt 20 (nextStart s.idx.toNat s.start.toInt)).toInt = anchor ((s.idx + 1).toNat - 1)
    rw [nextStart_anchor hstart, toInt_ofInt_anchor hidx, idx_add_one hidx, Nat.add_sub_cancel]

theorem Truthful.emitBeat (h : Truthful s) (hp : s.phase = .run) (hst : s.stage = .emitBmp ∨ s.stage = .emitPcx) :
    Truthful (emitBeat s) := by
  cases hn : s.nextOut with
  | none => rw [emitBeat_none hn]; exact h
  | some out =>
    have hf : FlagsTruthful (emitByte out s) := { h with }
    rw [emitBeat_some hn]
    split_ifs
    · exact hf.finishPrimitive hp
    · obtain ⟨r, c, hadv⟩ := advance_eq_moveTo 59 (emitByte out s)
      have hm : FlagsTruthful (moveTo r c (emitByte out s)) := { h with }
      rw [hadv]
      exact hm.truthful fun _ => progress_emit hst
    · exact hf.truthful fun _ => progress_emit hst

theorem Truthful.beatBody (h : Truthful s) (hs : Safe s) (hp : s.phase = .run) : Truthful (beatBody s) := by
  unfold Machine.beatBody
  split
  next => exact h
  next hst => exact h.loadBeat hs hp hst
  next hst => exact h.unpackBeat hs hp hst
  next hst => exact h.upscaleBeat hs hp hst
  next hst => exact h.emitBeat hp (.inl hst)
  next hst => exact h.emitBeat hp (.inr hst)

end

theorem keptByActs_safe_truthful : KeptByActs fun s => Safe s ∧ Truthful s where
  host s rest h := ⟨keptByActs_safe.host s rest h.1, { h.2 with }⟩
  sink s ok h := ⟨keptByActs_safe.sink s ok h.1, { h.2 with }⟩
  reset s h := ⟨keptByActs_safe.reset s h.1, (flagsTruthful_of_clear rfl rfl rfl).stopped (by simp)⟩
  illegal s w hi h := by
    have hf : FlagsTruthful ((s.accept w).raise .illegalCommand (w.setWidth 16)) := { h.2.flags with }
    exact ⟨keptByActs_safe.illegal s w hi h.1, hf.stopped (by simp)⟩
  start s w hi hst h := by
    have hf : FlagsTruthful (s.accept w) := { h.2.flags with }
    exact ⟨keptByActs_safe.start s w hi hst h.1, hf.entered (entered_enter rfl hst)⟩
  beat s hp h := ⟨h.1.beatBody hp, h.2.beatBody h.1 hp⟩

/-- Settles O55: in a safe block every act of the host and every beat keeps `Truthful`. -/
theorem validFlagsStayTruthful : Obligations.ValidFlagsStayTruthful := fun _ _ hs h ht =>
  (keptByActs_safe_truthful.step_next ⟨hs, h⟩ ht).2

/-- The last bit of a byte, as a byte (R24). -/
theorem and_one_eq_zero_or_one (v : Byte) : v &&& 1 = 0x00 ∨ v &&& 1 = 0x01 := by
  rw [show (1 : Byte) = 1#8 from rfl, BitVec.and_one_eq_setWidth_ofBool_getLsbD]
  cases v.getLsbD 0
  · exact .inl rfl
  · exact .inr rfl

/-- Settles O56: an unpacked pixel is a masked bit, and a spread cell is an unpacked pixel or 0x00. -/
theorem validPixelsAreBits : Obligations.ValidPixelsAreBits := by
  intro s h huns
  have hunp : s.unpV = true → ∀ a < 30720, s.read .unp a = 0x00 ∨ s.read .unp a = 0x01 := fun hu a ha => by
    rw [State.read_of_cell? (by exact h.unp hu a ha)]
    exact and_one_eq_zero_or_one _
  refine ⟨hunp, fun hv d hd => ?_⟩
  rw [State.read_of_cell? (by exact h.scl hv d hd), spreadCell]
  split_ifs with ht
  · exact hunp (huns hv) _ ht.2
  · exact .inl rfl

/-- Settles O52: nothing runs, nothing is listed and no flag is set. -/
theorem resetIsSafeAndTruthful : Obligations.ResetIsSafeAndTruthful :=
  ⟨{ safe_hardReset State.reset with }, (flagsTruthful_of_clear rfl rfl rfl).stopped (by decide)⟩

end Sys2Proof.Safety

/-!
PROOFS. The statements of the encoding family. A word and its fields say the same (`fieldsOf_eq_iff`), and decoding reads the
fields as the opcode map lists them (`decode_eq_ok_iff`): so a word decodes to a command exactly when it is that command's
word, and decodes at all exactly when its fields are well formed. A beat of an emission completes the command when the byte
it appends is marked and leaves it running otherwise. A script assembles line by line, and a line that is one of the
spellings stands for its commands.
-/

namespace Sys2Proof

/-! ## Words and fields (R35) -/

@[simp] theorem wordOf_fieldsOf (w : Byte) : wordOf (fieldsOf w) = w := by
  revert w; decide

@[simp] theorem fieldsOf_wordOf (f : CommandFields) : fieldsOf (wordOf f) = f := by
  obtain ⟨z, c, s, op⟩ := f
  revert z c s op; decide

theorem fieldsOf_eq_iff {w : Byte} {f : CommandFields} : fieldsOf w = f ↔ w = wordOf f :=
  ⟨fun h => by rw [← h, wordOf_fieldsOf], fun h => by rw [h, fieldsOf_wordOf]⟩

/-! ## Decoding (R37, R38) -/

/-- A word decodes to a command exactly when its fields are those the opcode map gives that command (R37). -/
theorem decode_eq_ok_iff {w : Byte} {i : Instr} : decode w = .ok i ↔ fieldsOf w = fieldsOfInstr i := by
  unfold decode
  generalize fieldsOf w = f
  constructor
  · obtain ⟨z, c, s, op⟩ := f
    dsimp only
    intro h
    split_ifs at h with hz
    split at h <;> cases h <;> simp_all [fieldsOfInstr, ← BitVec.toNat_inj]
  · rintro rfl
    cases i <;> rfl

theorem decode_eq_ok_iff_eq_encode {w : Byte} {i : Instr} : decode w = .ok i ↔ w = encode i :=
  decode_eq_ok_iff.trans fieldsOf_eq_iff

/-- Settles O2: the word of a command's fields has those fields, and no other word has them. -/
theorem decodeInvertsEncode : Obligations.DecodeInvertsEncode :=
  ⟨fun _ => decode_eq_ok_iff_eq_encode.2 rfl, fun _ _ => decode_eq_ok_iff_eq_encode.1⟩

/-- Settles O1: a word decodes to a command exactly when it is the command's word, which the map writes out. -/
theorem legalWordsAreTheNineOfTheMap : Obligations.LegalWordsAreTheNineOfTheMap := by
  intro w i
  rw [decode_eq_ok_iff_eq_encode]
  cases i <;> simp

/-- Settles O4: six words of the map and one word of each illegal class. -/
theorem sampleWordsDecode : Obligations.SampleWordsDecode := by
  unfold Obligations.SampleWordsDecode
  decide

/-! ## Illegal words (R38, R74) -/

/-- The nine commands, in the order of the opcode map (R37). -/
def commands : List Instr :=
  [.load, .unpack, .upscale, .emitBmpR, .emitBmpS, .emitPcx, .convBmpR, .convBmpS, .convPcx]

theorem mem_commands (i : Instr) : i ∈ commands := by
  cases i <;> decide

/-- The checks of R35 to R38 hold of the fields of the commands and of no others. -/
theorem CommandFields.wellFormed_iff {f : CommandFields} : f.wellFormed = true ↔ ∃ i, f = fieldsOfInstr i := by
  constructor
  · have h : ∀ z c s op, CommandFields.wellFormed ⟨z, c, s, op⟩ = true →
        ∃ i ∈ commands, ⟨z, c, s, op⟩ = fieldsOfInstr i := by decide
    exact fun hf => (h _ _ _ _ hf).imp fun _ => And.right
  · rintro ⟨i, rfl⟩
    cases i <;> rfl

/-- `OP` names one of the five operations unless it is 0, 6 or 7. -/
theorem CommandFields.opOk_iff {f : CommandFields} : f.opOk = true ↔ f.op ≠ 0 ∧ f.op ≠ 6 ∧ f.op ≠ 7 := by
  unfold opOk
  generalize f.op = op
  revert op; decide

/-- Fields that fail a check belong to one of R38's classes. -/
theorem CommandFields.not_wellFormed_iff {f : CommandFields} : ¬f.wellFormed = true ↔
    f.op = 0 ∨ f.op = 6 ∨ f.op = 7 ∨ f.z ≠ 0 ∨ (f.s = true ∧ f.op ≠ 4) ∨ (f.c = true ∧ f.op ≠ 4 ∧ f.op ≠ 5) := by
  have hz : f.zOk = true ↔ f.z = 0 := beq_iff_eq
  have hs : f.scaleOk = true ↔ (f.s = true → f.op = 4) := by simp [scaleOk, imp_iff_not_or]
  have hc : f.chainOk = true ↔ (f.c = true → f.op = 4 ∨ f.op = 5) := by simp [chainOk, imp_iff_not_or, or_assoc]
  simp only [wellFormed, Bool.and_eq_true, hz, opOk_iff, hs, hc, not_and_or, Classical.not_imp, not_or, ne_eq, not_not,
    or_assoc, or_left_comm (a := ¬f.z = 0)]

theorem exists_decode_eq_ok_iff {w : Byte} : (∃ i, decode w = .ok i) ↔ (fieldsOf w).wellFormed = true := by
  simp only [decode_eq_ok_iff, CommandFields.wellFormed_iff]

theorem exists_decode_eq_error_iff {w : Byte} : (∃ e, decode w = .error e) ↔ ¬(fieldsOf w).wellFormed = true := by
  rw [← exists_decode_eq_ok_iff]
  cases decode w <;> simp

theorem decode_isNone_eq_false_iff {w : Byte} : (decode w).toOption.isNone = false ↔ ∃ i, w = encode i := by
  simp only [← decode_eq_ok_iff_eq_encode]
  cases decode w <;> simp [Except.toOption]

/-- Among the numbers of a byte those that decode are the words of the nine commands. -/
theorem legal_perm_commands :
    ((List.range 256).filter fun n => !(decode (BitVec.ofNat 8 n)).toOption.isNone).Perm
      (commands.map fun i => (encode i).toNat) := by
  refine (List.perm_ext_iff_of_nodup (List.nodup_range.filter _) (by decide)).2 fun n => ?_
  rw [List.mem_filter, List.mem_range, Bool.not_eq_true', decode_isNone_eq_false_iff, List.mem_map]
  constructor
  · rintro ⟨hn, i, hi⟩
    exact ⟨i, mem_commands i, by rw [← hi, BitVec.toNat_ofNat, Nat.mod_eq_of_lt hn]⟩
  · rintro ⟨i, -, rfl⟩
    exact ⟨(encode i).isLt, i, by simp⟩

theorem length_illegal :
    ((List.range 256).filter fun n => (decode (BitVec.ofNat 8 n)).toOption.isNone).length = 247 := by
  have hall := List.length_eq_length_filter_add (l := List.range 256)
    fun n => (decode (BitVec.ofNat 8 n)).toOption.isNone
  have hnine : commands.length = 9 := rfl
  rw [legal_perm_commands.length_eq, List.length_map, List.length_range, hnine] at hall
  omega

end Sys2Proof

namespace Sys2Proof.Machine

/-- Settles O3: the classes are the failed checks, 247 is 256 less the nine commands, and the strobe is `execIllegal`. -/
theorem illegalWordsFaultByClass : Obligations.IllegalWordsFaultByClass := by
  refine ⟨fun w => exists_decode_eq_error_iff.trans CommandFields.not_wellFormed_iff, length_illegal,
    fun w e s hd => ⟨fun hi => ?_, strobe_not_idle w⟩⟩
  rw [strobe, hd]
  exact execIllegal_idle w hi

/-! ## The end of an emission (R43, R83) -/

/-- A running emission offers a byte. -/
theorem exists_nextOut {s : State} (hp : s.phase = .run) (hst : s.stage = .emitBmp ∨ s.stage = .emitPcx) :
    ∃ v last, s.nextOut = some (v, last) := by
  rcases hst with hst | hst
  · cases hw : scaleOf s.cmdreg with
    | false => exact (nextOut_rows hp (.inl ⟨hst, hw⟩)).imp fun _ h => ⟨_, h⟩
    | true => exact (nextOut_scaled hp hst hw).imp fun _ h => ⟨_, h⟩
  · exact (nextOut_rows hp (.inr hst)).imp fun _ h => ⟨_, h⟩

/-- An emission is the last primitive of its command (R68, R69, R70). -/
theorem finishPrimitive_emission {s : State} (hst : s.stage = .emitBmp ∨ s.stage = .emitPcx) :
    finishPrimitive s = s.complete := by
  refine finishPrimitive_complete ?_
  unfold nextStage
  rcases hst with hst | hst <;> rw [hst] <;> exact ite_self _

theorem emitBeat_marked {s : State} {v : Byte} (hst : s.stage = .emitBmp ∨ s.stage = .emitPcx)
    (h : s.nextOut = some (v, true)) : emitBeat s = (emitByte (v, true) s).complete := by
  rw [emitBeat_some h]
  exact finishPrimitive_emission hst

/-- A byte without a mark leaves all but the place of the emission as `emitByte` makes it. -/
theorem emitBeat_unmarked {s : State} {v : Byte} (h : s.nextOut = some (v, false)) :
    ∃ r c, emitBeat s = moveTo r c (emitByte (v, false) s) := by
  rw [emitBeat_some h, if_neg Bool.false_ne_true]
  split_ifs
  · exact advance_eq_moveTo ..
  · exact ⟨_, _, rfl⟩

/-- Settles O59: the marked byte completes the command, and after any other byte it still runs. -/
theorem markOnlyAtTheEndOfTheFile : Obligations.MarkOnlyAtTheEndOfTheFile := by
  intro s t hs hp hst ht
  have hbody : beatBody s = emitBeat s := by rcases hst with hst | hst <;> rw [beatBody, hst]
  rw [beat_inRange (hs.inRange hp), hbody] at ht
  obtain rfl := Host.Outcome.next.inj ht
  obtain ⟨v, last, hn⟩ := exists_nextOut hp hst
  refine ⟨v, last, hn, ?_⟩
  cases last with
  | true => rw [emitBeat_marked hst hn]; exact ⟨rfl, iff_of_true rfl ⟨rfl, rfl⟩⟩
  | false =>
    obtain ⟨r, c, he⟩ := emitBeat_unmarked hn
    rw [he]
    have hrun : (moveTo r c (emitByte (v, false) s)).phase = .run := hp
    exact ⟨rfl, iff_of_false Bool.false_ne_true fun h => by simp [hrun] at h⟩

/-! ## Scripts (R40, R41) -/

theorem exists_linesOf_eq_cons (cs : List Char) : ∃ l ls, linesOf cs = l :: ls := by
  cases cs with
  | nil => exact ⟨_, _, rfl⟩
  | cons c cs =>
    rw [linesOf]
    split
    · exact ⟨_, _, rfl⟩
    · split_ifs <;> exact ⟨_, _, rfl⟩

@[simp] theorem linesOf_newline (cs : List Char) : linesOf ('\n' :: cs) = [] :: linesOf cs := by
  obtain ⟨l, ls, h⟩ := exists_linesOf_eq_cons cs
  rw [linesOf, h]
  exact if_pos rfl

/-- Text without a line end goes to the front of the first line. -/
theorem linesOf_append {l cs l' : List Char} {ls : List (List Char)} (hl : '\n' ∉ l) (h : linesOf cs = l' :: ls) :
    linesOf (l ++ cs) = (l ++ l') :: ls := by
  induction l with
  | nil => exact h
  | cons c l ih =>
    rw [List.mem_cons, not_or] at hl
    rw [List.cons_append, linesOf, ih hl.2]
    exact if_neg (Ne.symm hl.1)

/-- What stands from the first `;` of a line on is not read (R40). -/
theorem lineCommands_comment (l : List Char) : lineCommands l = lineCommands (l.takeWhile (· != ';')) := by
  simp only [lineCommands, stripLine, List.takeWhile_idem]

/-- A script of one line is the words of its commands. -/
theorem assemble_line {l : List Char} {is : List Instr} (hl : '\n' ∉ l) (h : lineCommands l = some is) :
    assemble l = some (is.map encode) := by
  have hlines : linesOf l = [l] := by simpa using linesOf_append hl (cs := []) rfl
  simp [assemble, hlines, h]

/-- The words of a script are those of its first line, then those of the rest (R40). -/
theorem assemble_first_line {text cs : List Char} {is : List Instr} {ws : List Byte}
    (htext : text.dropWhile (· != '\n') = '\n' :: cs) (h : lineCommands (text.takeWhile (· != '\n')) = some is)
    (hcs : assemble cs = some ws) : assemble text = some (is.map encode ++ ws) := by
  have hl : '\n' ∉ text.takeWhile (· != '\n') := fun hm => by simpa using List.mem_takeWhile_imp hm
  have hlines := linesOf_append hl (linesOf_newline cs)
  rw [← htext, List.takeWhile_append_dropWhile, List.append_nil] at hlines
  obtain ⟨js, hjs, rfl⟩ := Option.map_eq_some_iff.1 hcs
  simp [assemble, hlines, h, hjs]

/-- Every spelling of R37 and R41 is one line, and stands for the commands listed with it. -/
theorem lineCommands_spellings : ∀ e ∈ spellings, '\n' ∉ e.1 ∧ lineCommands e.1 = some e.2 := by decide

theorem lineCommands_mnemonic (i : Instr) : '\n' ∉ mnemonic i ∧ lineCommands (mnemonic i) = some [i] :=
  lineCommands_spellings _ (List.mem_append_left _ (List.mem_map_of_mem (mem_commands i)))

theorem assemble_mnemonic (i : Instr) : assemble (mnemonic i) = some [encode i] :=
  assemble_line (lineCommands_mnemonic i).1 (lineCommands_mnemonic i).2

theorem assemble_pseudo (p : Pseudo) : assemble p.spelling = some (p.expand.map encode) := by
  have hp : p ∈ [Pseudo.convert, .convertRawsize, .emitBmpScale1, .emitBmpScale0, .scaleBmp] := by cases p <;> decide
  obtain ⟨hl, h⟩ := lineCommands_spellings _ (List.mem_append_right _ (List.mem_map_of_mem hp))
  exact assemble_line hl h

/-- Settles O51: each text is a mnemonic or a pseudo-command, two lines, or a line with a comment. -/
theorem scriptsAssemble : Obligations.ScriptsAssemble := by
  refine ⟨assemble_mnemonic, ?_, ?_, assemble_pseudo .convert, assemble_pseudo .convertRawsize,
    assemble_pseudo .emitBmpScale1, assemble_pseudo .emitBmpScale0, assemble_pseudo .scaleBmp, by decide⟩
  · exact assemble_first_line (is := [.load]) (cs := mnemonic .unpack) (by decide) (lineCommands_mnemonic .load).2
      (assemble_mnemonic .unpack)
  · have hblank : assemble [] = some [] := assemble_line List.not_mem_nil rfl
    exact assemble_first_line (is := [.convBmpS]) (by decide) ((lineCommands_comment _).trans (by decide)) hblank

end Sys2Proof.Machine

/-!
PROOFS. The statements of the decoder family. After LOAD of a whole frame in an idle block `RAW` holds the frame's pixel
bytes (`execLoad_read_raw`); its writes are made position by position (`frameWrites_eq_filterMap_range`), so the padding
positions, which make none, cannot matter; and a LOAD is ignored, completes or faults (`execLoad_cases`).
-/

namespace Sys2Proof.Machine

/-! ## The writes of a frame (R42, R45) -/

/-- LOAD's writes, position by position. -/
theorem frameWrites_eq_filterMap_range (ds : List Byte) :
    frameWrites ds = (List.range ds.length).filterMap fun k => ds[k]?.bind (frameWrite · k) := by
  induction ds using List.reverseRecOn with
  | nil => rfl
  | append_singleton ds v ih =>
    have hfront : ((List.range ds.length).filterMap fun k => (ds ++ [v])[k]?.bind (frameWrite · k)) =
        (List.range ds.length).filterMap fun k => ds[k]?.bind (frameWrite · k) :=
      List.filterMap_congr fun k hk => by rw [List.getElem?_append_left (List.mem_range.1 hk)]
    rw [frameWrites_concat, List.length_append, List.length_singleton, List.range_succ, List.filterMap_append,
      hfront, ih]
    cases h : frameWrite v ds.length <;> simp [h]

/-- A byte of a padding column makes no write (R45 (b)). -/
theorem frameWrite_padding (v : Byte) {k : Nat} (h : ¬k % 64 < 60) : frameWrite v k = none := if_neg h

/-- Frames of one length that agree but for their padding make the same writes. -/
theorem frameWrites_congr {ds ds' : List Byte} (hl : ds.length = ds'.length)
    (h : ∀ k < ds.length, k % 64 < 60 → ds[k]? = ds'[k]?) : frameWrites ds = frameWrites ds' := by
  rw [frameWrites_eq_filterMap_range, frameWrites_eq_filterMap_range, ← hl]
  refine List.filterMap_congr fun k hk => ?_
  by_cases hc : k % 64 < 60
  · rw [h k (List.mem_range.1 hk) hc]
  · simp only [frameWrite_padding _ hc, Option.bind_fun_none]

/-- LOAD's loop on an input that begins with the frame `d`. -/
theorem loadFull_append {s : State} {d rest : List Byte} (hin : s.input = d ++ rest) (hd : d.length = 4096) :
    loadFull s = { s with
      raw := s.raw.writeAll (frameWrites d), input := rest, incnt := 4096, row := 63, col := 63, rawV := true } := by
  rw [loadFull, hin, List.take_left' hd, List.drop_left' hd]

/-- Settles O22: with their frames written out the two outcomes differ in the writes only, and those are the same. -/
theorem loadIgnoresPadding : Obligations.LoadIgnoresPadding := by
  intro s d d' rest hd hd' hagree
  have hw : frameWrites d = frameWrites d' := frameWrites_congr (hd.trans hd'.symm) (by rwa [hd])
  have hl : ∀ {e : List Byte}, e.length = 4096 → 4096 ≤ (e ++ rest).length := fun he => by simp [he]
  rw [execLoad_long rfl (hl hd), execLoad_long rfl (hl hd'), loadFull_append (d := d) rfl hd,
    loadFull_append (d := d') rfl hd', hw]
  rfl

/-! ## What LOAD leaves in `RAW` (R44, R45) -/

/-- After LOAD every pixel cell of `RAW` holds its input byte. -/
theorem execLoad_read_raw {s t : State} (hi : s.phase = .idle) (hl : 4096 ≤ s.input.length)
    (ht : exec .load s = .next t) {r b : Nat} (hr : r < 64) (hb : b < 60) :
    s.input[r * 64 + b]? = some (t.read .raw (rawIndex r b)) := by
  obtain rfl := Host.Outcome.next.inj ((execLoad_long hi hl).symm.trans ht)
  have hv : s.input[r * 64 + b]? = some s.input[r * 64 + b] := List.getElem?_eq_getElem (by omega)
  have hv' : (s.input.take 4096)[r * 64 + b]? = some s.input[r * 64 + b] := by
    rwa [List.getElem?_take_of_lt (by omega)]
  rw [hv, State.read_frameWrites (m := s.raw) rfl hb hv']

/-- Settles O21: the pixel cells hold their input bytes, and the rest is what completion leaves. -/
theorem loadStoresTheFrame : Obligations.LoadStoresTheFrame := by
  intro s hi hl
  have ht := execLoad_long hi hl
  exact ⟨_, ht, fun r hr b hb => execLoad_read_raw hi hl ht hr hb,
    rfl, rfl, rfl, rfl, rfl, rfl, rfl, rfl, rfl, rfl, rfl⟩

/-- Settles O23: the BitGrid view shows the bits of the cell that holds input byte `r*64 + c/8`. -/
theorem loadGivesTheBitGrid : Obligations.LoadGivesTheBitGrid := by
  intro s d rest hi hin hd
  have hl : 4096 ≤ s.input.length := by simp [hin, hd]
  have ht := execLoad_long hi hl
  refine ⟨_, ht, ?_, fun r hr c hc => ?_⟩
  · show s.input.drop 4096 = rest
    rw [hin, List.drop_left' hd]
  · have hv := execLoad_read_raw hi hl ht hr (b := c / 8) (by omega)
    rw [hin, List.getElem?_append_left (by omega)] at hv
    rw [State.bitGrid, List.getD_eq_getElem?_getD, hv, Option.getD_some]

/-! ## What LOAD leaves unchanged (R34, R45) -/

/-- What LOAD can do: it is ignored, it completes, or its source is too short. -/
theorem execLoad_cases {s t : State} (ht : exec .load s = .next t) :
    s.phase ≠ .idle ∧ t = s ∨
    4096 ≤ s.input.length ∧ t = (loadFull (loadEnter (s.accept 0x01))).complete ∨
    s.phase = .idle ∧ s.input.length < 4096 ∧ t = loadShort (loadEnter (s.accept 0x01)) := by
  by_cases hi : s.phase = .idle
  · rcases Nat.lt_or_ge s.input.length 4096 with hl | hl
    · exact .inr (.inr ⟨hi, hl, Host.Outcome.next.inj (ht.symm.trans (execLoad_short hi hl))⟩)
    · exact .inr (.inl ⟨hl, Host.Outcome.next.inj (ht.symm.trans (execLoad_long hi hl))⟩)
  · exact .inl ⟨hi, Host.Outcome.next.inj (ht.symm.trans (exec_not_idle .load hi))⟩

/-- A whole frame's writes go to the pixel cells only. -/
theorem not_mem_frameWrites {ds : List Byte} (hl : ds.length ≤ 4096) {a : Nat}
    (ha : ∀ r < 64, ∀ b < 60, a ≠ rawIndex r b) (v : Byte) : (a, v) ∉ frameWrites ds := fun hm => by
  obtain ⟨k, hk, hc, he⟩ := mem_frameWrites.1 hm
  have := (List.getElem?_eq_some_iff.1 hk).1
  exact ha (k / 64) (by omega) (k % 64) hc he

/-- Settles O24: an ignored LOAD changes nothing, a completed one writes `RAW` in its pixel cells only, and one whose
source is too short ends in a fault. -/
theorem loadFrame : Obligations.LoadFrame := by
  intro s t ht
  obtain ⟨-, rfl⟩ | ⟨-, rfl⟩ | ⟨hi, hl, rfl⟩ := execLoad_cases ht
  · exact ⟨⟨rfl, rfl, rfl, rfl, rfl⟩, fun _ => rfl, fun _ => rfl, fun _ _ _ => rfl, rfl, rfl, rfl, rfl,
      fun _ => ⟨rfl, rfl⟩⟩
  · refine ⟨⟨rfl, rfl, rfl, rfl, rfl⟩, fun _ => rfl, fun _ => rfl, fun _ a ha => ?_, rfl, rfl, rfl, rfl,
      fun _ => ⟨rfl, rfl⟩⟩
    have hraw : (loadFull (loadEnter (s.accept 0x01))).complete.mem .raw =
        (s.mem .raw).writeAll (frameWrites (s.input.take 4096)) := rfl
    exact State.read_of_not_written hraw rfl (not_mem_frameWrites (List.length_take_le _ _) ha)
  · exact ⟨⟨rfl, rfl, rfl, rfl, rfl⟩, fun _ => rfl, fun _ => rfl, fun h => absurd h (by simp [hi, hl]),
      rfl, rfl, rfl, rfl, fun h => absurd rfl h⟩

end Sys2Proof.Machine

/-!
PROOFS. The statements of the bit unpacker family. An UNPACK is ignored, completes or faults (`execUnpack_cases`), and in
none of the three does it change `RAW` (`execUnpack_sameRaw`). One that completes leaves the flipped BitGrid of `RAW` in
`UNP` (`execUnpack_read_unp`), which is the round trip after a LOAD; the same grid is left whenever `RAW` is the same, and
it holds the eight bits a byte of `RAW` is the sum of (`toNat_eq_sum_bits`).
-/

namespace Sys2Proof.Machine

open Sys2Proof.Safety

/-! ## What UNPACK can do, and what it leaves unchanged (R34, R46, R75) -/

/-- UNPACK is ignored, it completes, or `RAW` is not valid. -/
theorem execUnpack_cases {s t : State} (ht : exec .unpack s = .next t) :
    t = s ∨ t = (unpackBody (unpackStart ((s.accept 0x02).enterStage .unpack))).complete ∨
    t = ((s.accept 0x02).enterStage .unpack).raise .operandNotValid 0x0002 := by
  by_cases hi : s.phase = .idle
  · cases hv : s.rawV with
    | true => exact .inr (.inl (Host.Outcome.next.inj (ht.symm.trans (execUnpack_ok hi hv))))
    | false => exact .inr (.inr (Host.Outcome.next.inj (ht.symm.trans (execUnpack_invalid hi hv))))
  · exact .inl (Host.Outcome.next.inj (ht.symm.trans (exec_not_idle .unpack hi)))

/-- The writes of an UNPACK that completes. -/
theorem execUnpack_ok_unp (s : State) :
    (unpackBody (unpackStart ((s.accept 0x02).enterStage .unpack))).complete.unp =
      s.unp.writeAll (unpackWrites (s.read .raw)) := by
  rw [State.complete_unp, unpackBody_unp]
  rfl

/-- Settles O28: an ignored UNPACK changes nothing, one that completes writes `UNP` in its pixel cells only, and one that
finds `RAW` invalid ends in a fault. -/
theorem unpackFrame : Obligations.UnpackFrame := by
  intro s t ht
  obtain rfl | rfl | rfl := execUnpack_cases ht
  · exact ⟨⟨rfl, rfl, rfl, rfl, rfl⟩, fun _ => rfl, fun _ => rfl, fun _ _ => rfl, rfl, rfl, rfl, rfl, rfl, rfl,
      fun _ => ⟨rfl, rfl⟩⟩
  · refine ⟨⟨rfl, rfl, rfl, rfl, rfl⟩, fun _ => rfl, fun _ => rfl, fun a ha => ?_, rfl, rfl, rfl, rfl, rfl, rfl,
      fun _ => ⟨rfl, rfl⟩⟩
    have hunp := execUnpack_ok_unp s
    rw [← State.mem_unp, ← State.mem_unp] at hunp
    refine State.read_of_not_written hunp rfl fun v hm => ?_
    obtain ⟨r, hr, b, hb, k, hk, he, -⟩ := mem_unpackWrites.1 hm
    exact ha r hr b hb k hk he
  · exact ⟨⟨rfl, rfl, rfl, rfl, rfl⟩, fun _ => rfl, fun _ => rfl, fun _ _ => rfl, rfl, rfl, rfl, rfl, rfl, rfl,
      fun h => absurd rfl h⟩

/-- UNPACK does not change `RAW`. -/
theorem execUnpack_sameRaw {s t : State} (ht : exec .unpack s = .next t) : SameBuffer .raw s t := by
  obtain ⟨-, hraw, -⟩ := unpackFrame s t ht
  exact hraw

/-- UNPACK does not change `UNP` past its end. -/
theorem execUnpack_read_unp_of_ge {s t : State} (ht : exec .unpack s = .next t) {a : Nat} (ha : 30720 ≤ a) :
    t.read .unp a = s.read .unp a := by
  obtain ⟨-, -, -, hunp, -⟩ := unpackFrame s t ht
  refine hunp a fun r hr b hb k hk => ?_
  rw [unpIndex]
  omega

/-! ## What UNPACK leaves in `UNP` (R46, R47) -/

/-- After UNPACK every pixel of `UNP` is that of the mirrored row of the BitGrid view. -/
theorem execUnpack_read_unp {s t : State} (hi : s.phase = .idle) (hv : s.rawV = true) (ht : exec .unpack s = .next t)
    {r c : Nat} (hr : r < 64) (hc : c < 480) : t.read .unp (unpIndex r c) = s.bitGrid (63 - r) c := by
  obtain rfl := Host.Outcome.next.inj ((execUnpack_ok hi hv).symm.trans ht)
  exact State.read_unpackWrites (execUnpack_ok_unp s) hr hc

/-- Settles O25: the pixels are those of the mirrored rows, and the rest is what completion leaves. -/
theorem unpackFlipsAndExpands : Obligations.UnpackFlipsAndExpands := by
  intro s hi hv
  have ht := execUnpack_ok hi hv
  exact ⟨_, ht, fun r hr c hc => execUnpack_read_unp hi hv ht hr hc, hv, rfl, rfl, rfl, rfl, rfl, rfl, rfl, rfl⟩

/-- Settles O26: the BitGrid view LOAD gives, read through the mirrored rows. -/
theorem loadThenUnpackRoundTrip : Obligations.LoadThenUnpackRoundTrip := by
  intro s d rest hi hin hd
  obtain ⟨t, ht, -, hgrid⟩ := loadGivesTheBitGrid s d rest hi hin hd
  obtain ⟨t', ht', -, -, -, hv, -, -, -, hidle, -⟩ := loadStoresTheFrame s hi (by simp [hin, hd])
  obtain rfl := Host.Outcome.next.inj (ht'.symm.trans ht)
  have hu := execUnpack_ok hidle hv
  refine ⟨t', _, ht, hu, fun r hr c hc => ?_⟩
  rw [execUnpack_read_unp hidle hv hu hr hc, hgrid (63 - r) (by omega) c hc]

/-! ## UNPACK as a function of `RAW` (R48) -/

/-- The BitGrid view depends on the pixel cells of `RAW` only. -/
theorem bitGrid_congr {s s' : State}
    (h : ∀ r < 64, ∀ b < 60, s.read .raw (rawIndex r b) = s'.read .raw (rawIndex r b)) {r c : Nat} (hr : r < 64)
    (hc : c < 480) : s.bitGrid r c = s'.bitGrid r c := by
  rw [State.bitGrid, State.bitGrid, h r hr (c / 8) (by omega)]

/-- Every cell of `UNP` is a pixel. -/
theorem exists_eq_unpIndex {a : Nat} (ha : a < 30720) : ∃ r < 64, ∃ c < 480, a = unpIndex r c :=
  ⟨a / 480, by omega, a % 480, by omega, by rw [unpIndex]; omega⟩

/-- Blocks with the same `RAW` unpack to the same `UNP`. -/
theorem execUnpack_read_unp_congr {s s' t t' : State} (hi : s.phase = .idle) (hi' : s'.phase = .idle)
    (hv : s.rawV = true) (hv' : s'.rawV = true)
    (hraw : ∀ r < 64, ∀ b < 60, s.read .raw (rawIndex r b) = s'.read .raw (rawIndex r b))
    (ht : exec .unpack s = .next t) (ht' : exec .unpack s' = .next t') {a : Nat} (ha : a < 30720) :
    t.read .unp a = t'.read .unp a := by
  obtain ⟨r, hr, c, hc, rfl⟩ := exists_eq_unpIndex ha
  rw [execUnpack_read_unp hi hv ht hr hc, execUnpack_read_unp hi' hv' ht' hr hc, bitGrid_congr hraw (by omega) hc]

/-- A second UNPACK leaves `UNP` as the first did. -/
theorem execUnpack_idempotent {s t u : State} (hi : s.phase = .idle) (hv : s.rawV = true)
    (ht : exec .unpack s = .next t) (hu : exec .unpack t = .next u) : SameBuffer .unp t u := by
  obtain ⟨t', ht', -, hv', -, -, -, hi', -⟩ := unpackFlipsAndExpands s hi hv
  obtain rfl := Host.Outcome.next.inj (ht'.symm.trans ht)
  intro a
  rcases Nat.lt_or_ge a 30720 with ha | ha
  · exact execUnpack_read_unp_congr hi' hi hv' hv (fun _ _ _ _ => execUnpack_sameRaw ht _) hu ht ha
  · exact execUnpack_read_unp_of_ge hu ha

/-- The last `m` bits of a number, each at its place, sum to its residue. -/
theorem sum_bits_eq_mod (n m : Nat) :
    ((List.range m).map fun k => n / 2 ^ (m - 1 - k) % 2 * 2 ^ (m - 1 - k)).sum = n % 2 ^ m := by
  induction m with
  | zero => simp [Nat.mod_one]
  | succ m ih =>
    rw [List.range_succ_eq_map, List.map_cons, List.sum_cons, List.map_map, Nat.mod_pow_succ, ← ih]
    simp [Function.comp_def, Nat.sub_sub, Nat.add_comm, Nat.mul_comm]

/-- A byte is the sum of its bits, each at its place (R24). -/
theorem toNat_eq_sum_bits (v : Byte) :
    v.toNat = ((List.range 8).map fun k => ((v >>> (7 - k)) &&& 1).toNat * 2 ^ (7 - k)).sum := by
  have hbit : ∀ n, ((v >>> n) &&& 1).toNat = v.toNat / 2 ^ n % 2 := fun n => by
    rw [BitVec.toNat_and, BitVec.toNat_ushiftRight, Nat.shiftRight_eq_div_pow]
    exact Nat.and_one_is_mod _
  simp only [hbit]
  exact (Nat.mod_eq_of_lt v.isLt).symm.trans (sum_bits_eq_mod v.toNat 8).symm

/-- A byte of `RAW` is repacked from the eight pixels UNPACK made of it. -/
theorem execUnpack_repack {s t : State} (hi : s.phase = .idle) (hv : s.rawV = true) (ht : exec .unpack s = .next t)
    {r b : Nat} (hr : r < 64) (hb : b < 60) : (t.read .raw (rawIndex (63 - r) b)).toNat =
      ((List.range 8).map fun k => (t.read .unp (unpIndex r (8 * b + k))).toNat * 2 ^ (7 - k)).sum := by
  have hpixel : ∀ k ∈ List.range 8,
      t.read .unp (unpIndex r (8 * b + k)) = (s.read .raw (rawIndex (63 - r) b) >>> (7 - k)) &&& 1 := fun k hk => by
    have hk := List.mem_range.1 hk
    rw [execUnpack_read_unp hi hv ht hr (by omega), State.bitGrid, show (8 * b + k) / 8 = b by omega,
      show (8 * b + k) % 8 = k by omega]
  rw [execUnpack_sameRaw ht, toNat_eq_sum_bits]
  exact congrArg List.sum (List.map_congr_left fun k hk => by rw [hpixel k hk])

/-- Settles O27: the three parts of R48. -/
theorem unpackIsPureAndInvertible : Obligations.UnpackIsPureAndInvertible :=
  ⟨fun _ _ _ _ hi hi' hv hv' hraw ht ht' _ ha => execUnpack_read_unp_congr hi hi' hv hv' hraw ht ht' ha,
    fun _ _ _ hi hv ht hu => execUnpack_idempotent hi hv ht hu,
    fun _ _ hi hv ht _ hr _ hb => execUnpack_repack hi hv ht hr hb⟩

end Sys2Proof.Machine

/-!
PROOFS. The statements of the upscaler family. The recurrence of R50 visits the anchors whatever `START` held
(`foldl_nextStart`), so the spread phase is the spread of every source pixel around its anchor (`spreadAll_writes`). Its
targets are every cell but the last, each once (`spreadAll_targets_perm`): the targets of one anchor differ, those of two
anchors lie in different tiles. An UPSCALE is ignored, completes or faults (`execUpscale_cases`), and one that completes
leaves the shifted tiling in `SCL` (`execUpscale_read_scl`).
-/

namespace Sys2Proof.Machine

open Sys2Proof.Safety

/-! ## The targets of one source pixel (R49 to R52) -/

/-- Settles O29: the nine pairs of a row step and a column step are checked. -/
theorem stencilIsNeighbourhood : Obligations.StencilIsNeighbourhood := by
  unfold Obligations.StencilIsNeighbourhood
  decide

/-- Settles O30: a write is in the list when its cell is a target inside the buffer. -/
theorem spreadClipsAtBothEnds : Obligations.SpreadClipsAtBothEnds := fun _ _ _ _ =>
  mem_spreadWrites.trans <| and_congr_right fun _ =>
    ⟨fun ⟨ha, δ, hδ, he⟩ => ⟨δ, hδ, he, by omega, by omega⟩,
      fun ⟨δ, hδ, he, _, hlt⟩ => ⟨by omega, δ, hδ, he⟩⟩

/-- The anchor in the integers of `START` (R50). -/
theorem intCast_anchor (idx : Nat) :
    (anchor idx : Int) = (3 * (idx / 480 : Nat) + 1) * 1440 + 3 * (idx % 480 : Nat) := by
  simp only [anchor, Nat.cast_add, Nat.cast_mul, Nat.cast_ofNat, Nat.cast_one]

/-- R50's recurrence reaches the anchor of every source pixel, whatever `START` held before. -/
theorem foldl_nextStart (s0 : Int) (idx : Nat) :
    (List.range (idx + 1)).foldl (fun st i => nextStart i st) s0 = anchor idx := by
  induction idx with
  | zero => exact nextStart_anchor (idx := 0) (start := s0) (by simp)
  | succ idx ih =>
    rw [List.range_succ, List.foldl_append, ih]
    exact nextStart_anchor fun _ => rfl

/-- The first and the last anchor bound the others (R52). -/
theorem anchor_mem_range {idx : Nat} (hi : idx < 30720) : 1440 ≤ anchor idx ∧ anchor idx ≤ 275037 := by
  unfold anchor
  omega

/-- Only from the first source pixel's anchor does one row and one cell up leave the buffer (R52). -/
theorem anchor_lt_iff {idx : Nat} : anchor idx < 1441 ↔ idx = 0 := by
  unfold anchor
  omega

/-- An offset of the spread is at most one row and one cell either way (R49). -/
theorem delta_bounds : ∀ δ ∈ delta, -1441 ≤ δ ∧ δ ≤ 1441 := by decide

/-- Only the first offset goes further up than one row; it alone can leave the buffer below (R49, R52). -/
theorem delta_lt_iff : ∀ δ ∈ delta, δ < -1440 ↔ δ = -1441 := by decide

/-! ## The writes of the spread phase (R50, R54) -/

/-- The bytes of a buffer, each with its flat index. -/
theorem State.zipIdx_readFlat (s : State) (b : Buffer) (n : Nat) :
    (s.readFlat b n).zipIdx = (List.range n).map fun a => (s.read b a, a) :=
  List.ext_getElem (by simp) (by simp [State.readFlat])

/-- The spread phase spreads the pixels of `UNP` in flat order, each around its anchor. -/
theorem spreadAll_writes (s : State) :
    (spreadAll s).2 = (List.range 30720).flatMap fun idx => spreadWrites (anchor idx) (s.read .unp idx) := by
  rw [spreadAll, (spreadFrom_anchor _ 0 _ (by simp)).2, State.zipIdx_readFlat, List.flatMap_map]

/-- A candidate write goes to its own flat index (R51). -/
theorem mem_clip_fst {i : Int} {p : Byte} {a : Nat} : a ∈ (clip i p).map Prod.fst ↔ (a : Int) = i ∧ a < 276480 := by
  rw [clip]
  split_ifs with hb
  · rw [Option.map_some, Option.mem_some_iff]
    omega
  · rw [Option.map_none]
    exact iff_of_false (Option.not_mem_none a) fun ⟨he, hlt⟩ => hb (by omega)

/-- The targets of one source pixel differ from one another. -/
theorem nodup_spreadWrites (start : Int) (p : Byte) : ((spreadWrites start p).map Prod.fst).Nodup := by
  rw [spreadWrites, List.map_filterMap]
  refine List.Nodup.filterMap (fun δ δ' a h h' => ?_) (by decide)
  exact add_left_cancel ((mem_clip_fst.1 h).1.symm.trans (mem_clip_fst.1 h').1)

/-- A target of a source pixel lies in its tile, one cell down. -/
theorem tileSource_of_mem_spreadWrites {idx a : Nat} {p : Byte} (hi : idx < 30720)
    (ha : a ∈ (spreadWrites (anchor idx) p).map Prod.fst) : tileSource (a + 1) = idx := by
  obtain ⟨w, hw, rfl⟩ := List.mem_map.1 ha
  obtain ⟨-, -, δ, hδ, he⟩ := mem_spreadWrites.1 hw
  exact (tileSource_target hi hδ he).2

/-- No cell is a target twice (R54). -/
theorem nodup_spreadAll (s : State) : ((spreadAll s).2.map Prod.fst).Nodup := by
  rw [spreadAll_writes, List.map_flatMap, List.nodup_flatMap]
  refine ⟨fun idx _ => nodup_spreadWrites _ _, List.nodup_range.imp_of_mem fun hi hj hne a ha ha' => hne ?_⟩
  exact (tileSource_of_mem_spreadWrites (List.mem_range.1 hi) ha).symm.trans
    (tileSource_of_mem_spreadWrites (List.mem_range.1 hj) ha')

/-- The targets are the cells but the last. -/
theorem mem_targets_spreadAll {s : State} {d : Nat} : d ∈ (spreadAll s).2.map Prod.fst ↔ d < 276479 := by
  constructor
  · intro h
    obtain ⟨w, hw, rfl⟩ := List.mem_map.1 h
    obtain ⟨idx, hi, -, -, δ, hδ, he⟩ := mem_spreadAll.1 hw
    exact (tileSource_target hi hδ he).1
  · intro hd
    obtain ⟨hi, δ, hδ, he⟩ := exists_target hd
    exact List.mem_map.2 ⟨(d, _), mem_spreadAll.2 ⟨_, hi, rfl, by omega, δ, hδ, he⟩, rfl⟩

/-- The spread phase writes every cell but the last, each once. -/
theorem spreadAll_targets_perm (s : State) : ((spreadAll s).2.map Prod.fst).Perm (List.range 276479) :=
  (List.perm_ext_iff_of_nodup (nodup_spreadAll s) List.nodup_range).2 fun _ =>
    mem_targets_spreadAll.trans List.mem_range.symm

/-- Settles O31: the anchors and the offsets have their bounds, and the writes are as many as the cells they go to. -/
theorem anchorAndTargetRanges : Obligations.AnchorAndTargetRanges := by
  refine ⟨fun s0 idx hi => ?_, fun s => by simpa using (spreadAll_targets_perm s).length_eq⟩
  obtain ⟨hge, hle⟩ := anchor_mem_range hi
  have hfirst := anchor_lt_iff (idx := idx)
  dsimp only
  rw [foldl_nextStart]
  refine ⟨intCast_anchor idx, by omega, by omega, by rintro rfl; rfl, by rintro rfl; rfl, fun δ hδ => ?_,
    toInt_ofInt_anchor hi⟩
  obtain ⟨hup, hdown⟩ := delta_bounds δ hδ
  have hcorner := delta_lt_iff δ hδ
  omega

/-- Writes to different cells may be made in any order. -/
theorem Memory.writeAll_perm {size : Nat} {m : Memory} {us ws : List Host.Cell} (hm : Memory.wf size m)
    (hlt : ∀ w ∈ ws, w.1 < size) (hn : (ws.map Prod.fst).Nodup) (h : us.Perm ws) : m.writeAll us = m.writeAll ws := by
  have hkeys : (us.map Prod.fst).Perm (ws.map Prod.fst) := h.map _
  refine Memory.ext_of_wf (Memory.wf_writeAll hm fun w hw => hlt w (h.mem_iff.1 hw)) (Memory.wf_writeAll hm hlt) fun a => ?_
  by_cases ha : a ∈ ws.map Prod.fst
  · obtain ⟨w, hw, rfl⟩ := List.mem_map.1 ha
    rw [Memory.cell?_writeAll_of_mem m hn hw, Memory.cell?_writeAll_of_mem m (hkeys.nodup_iff.2 hn) (h.mem_iff.2 hw)]
  · rw [Memory.cell?_writeAll_of_not_mem m ha, Memory.cell?_writeAll_of_not_mem m (mt hkeys.mem_iff.1 ha)]

/-! ## What UPSCALE can do, and what it leaves in `SCL` (R50, R53, R75) -/

/-- UPSCALE is ignored, it completes, or `UNP` is not valid. -/
theorem execUpscale_cases {s t : State} (ht : exec .upscale s = .next t) :
    t = s ∨ t = (upscaleBody (upscaleStart ((s.accept 0x03).enterStage .upscale))).complete ∨
    t = ((s.accept 0x03).enterStage .upscale).raise .operandNotValid 0x0003 := by
  by_cases hi : s.phase = .idle
  · cases hv : s.unpV with
    | true => exact .inr (.inl (Host.Outcome.next.inj (ht.symm.trans (execUpscale_ok hi hv))))
    | false => exact .inr (.inr (Host.Outcome.next.inj (ht.symm.trans (execUpscale_invalid hi hv))))
  · exact .inl (Host.Outcome.next.inj (ht.symm.trans (exec_not_idle .upscale hi)))

/-- The writes of an UPSCALE that completes: the clear phase, then the spread phase. -/
theorem execUpscale_ok_scl (s : State) :
    (upscaleBody (upscaleStart ((s.accept 0x03).enterStage .upscale))).complete.scl =
      s.scl.writeAll (clearWrites ++ (spreadAll s).2) := by
  rw [State.complete_scl, upscaleBody_scl, upscaleStart_scl, spreadAll_congr (s := s) rfl rfl, Memory.writeAll_append]
  rfl

/-- After UPSCALE every cell but the last reads as its source pixel in the tiling, one cell up. -/
theorem execUpscale_read_scl {s t : State} (hi : s.phase = .idle) (hv : s.unpV = true) (ht : exec .upscale s = .next t)
    {d : Nat} (hd : d < 276479) : t.read .scl d = s.read .unp (tileSource (d + 1)) := by
  obtain rfl := Host.Outcome.next.inj ((execUpscale_ok hi hv).symm.trans ht)
  refine State.read_of_cell? ?_
  rw [State.mem_scl, execUpscale_ok_scl, Memory.writeAll_append, cell?_spreadAll _ _ hd]

/-- After UPSCALE the last cell is clear. -/
theorem execUpscale_read_scl_last {s t : State} (hi : s.phase = .idle) (hv : s.unpV = true)
    (ht : exec .upscale s = .next t) : t.read .scl 276479 = 0x00 := by
  obtain rfl := Host.Outcome.next.inj ((execUpscale_ok hi hv).symm.trans ht)
  refine State.read_of_cell? ?_
  rw [State.mem_scl, execUpscale_ok_scl, Memory.writeAll_append, cell?_spreadAll_last, cell?_clearWrites _ (by decide)]

/-- The tiling moved one cell down, inside a destination row. -/
theorem tileSource_sclIndex_succ {y x : Nat} (hx : x < 1439) :
    tileSource (sclIndex y x + 1) = unpIndex (y / 3) ((x + 1) / 3) := by
  rw [tileSource, sclIndex, show (y * 1440 + x + 1) / 1440 = y by omega, show (y * 1440 + x + 1) % 1440 = x + 1 by omega]

/-- The tiling moved one cell down, at a destination row's last cell: the first pixel of the row after. -/
theorem tileSource_sclIndex_last (y : Nat) : tileSource (sclIndex y 1439 + 1) = unpIndex ((y + 1) / 3) 0 := by
  rw [tileSource, sclIndex, show (y * 1440 + 1439 + 1) / 1440 = y + 1 by omega,
    show (y * 1440 + 1439 + 1) % 1440 = 0 by omega]

/-- Settles O32: the tiling by flat index, the same by row and column, and the rest is what completion leaves. -/
theorem upscaleClosedForm : Obligations.UpscaleClosedForm := by
  intro s hi hv
  have ht := execUpscale_ok hi hv
  refine ⟨_, ht, fun d hd => execUpscale_read_scl hi hv ht hd, execUpscale_read_scl_last hi hv ht, fun y hy x hx => ?_,
    fun y hy => ?_, rfl, hv, rfl, rfl, rfl, rfl, rfl, rfl, rfl⟩
  · rw [execUpscale_read_scl hi hv ht (by rw [sclIndex]; omega), tileSource_sclIndex_succ hx]
  · rw [execUpscale_read_scl hi hv ht (by rw [sclIndex]; omega), tileSource_sclIndex_last]

/-- The anchor by row and column. -/
theorem anchor_unpIndex (r : Nat) {c : Nat} (hc : c < 480) : anchor (unpIndex r c) = (3 * r + 1) * 1440 + 3 * c := by
  rw [anchor, unpIndex, show (r * 480 + c) / 480 = r by omega, show (r * 480 + c) % 480 = c by omega]

/-- After UPSCALE every target of a source pixel that is not clipped holds the pixel. -/
theorem execUpscale_read_target {s t : State} (hi : s.phase = .idle) (hv : s.unpV = true)
    (ht : exec .upscale s = .next t) {idx a : Nat} (hidx : idx < 30720) {δ : Int} (hδ : δ ∈ delta)
    (he : (a : Int) = anchor idx + δ) : t.read .scl a = s.read .unp idx := by
  obtain ⟨ha, htile⟩ := tileSource_target hidx hδ he
  rw [execUpscale_read_scl hi hv ht ha, htile]

/-- Settles O33: the cells the spread phase writes, their independence of the order, and what a target holds. -/
theorem spreadWritesEachCellOnce : Obligations.SpreadWritesEachCellOnce := by
  refine ⟨spreadAll_targets_perm, fun s m ws hm hws => Memory.writeAll_perm hm (spreadAll_lt s) (nodup_spreadAll s) hws,
    fun s t hi hv ht r c a hr hc δ hδ he => ?_⟩
  refine execUpscale_read_target hi hv ht (by rw [unpIndex]; omega) hδ ?_
  rw [anchor_unpIndex r hc]
  exact_mod_cast he

/-! ## What UPSCALE leaves unchanged (R34) -/

/-- Both phases write inside the buffer. -/
theorem upscaleWrites_lt (s : State) : ∀ w ∈ clearWrites ++ (spreadAll s).2, w.1 < 276480 := fun w hw =>
  (List.mem_append.1 hw).elim (clearWrites_lt w) (spreadAll_lt s w)

/-- Every cell of `SCL` has a row and a column. -/
theorem exists_eq_sclIndex {a : Nat} (ha : a < 276480) : ∃ y < 192, ∃ x < 1440, a = sclIndex y x :=
  ⟨a / 1440, by omega, a % 1440, by omega, by rw [sclIndex]; omega⟩

/-- Settles O34: an ignored UPSCALE changes nothing, one that completes writes `SCL` in its cells only, and one that finds
`UNP` invalid ends in a fault. -/
theorem upscaleFrame : Obligations.UpscaleFrame := by
  intro s t ht
  obtain rfl | rfl | rfl := execUpscale_cases ht
  · exact ⟨⟨rfl, rfl, rfl, rfl, rfl⟩, fun _ => rfl, fun _ => rfl, fun _ _ => rfl, rfl, rfl, rfl, rfl, rfl, rfl, rfl, rfl,
      fun _ => ⟨rfl, rfl⟩⟩
  · refine ⟨⟨rfl, rfl, rfl, rfl, rfl⟩, fun _ => rfl, fun _ => rfl, fun a ha => ?_, rfl, rfl, rfl, rfl, rfl, rfl, rfl, rfl,
      fun _ => ⟨rfl, rfl⟩⟩
    have hscl := execUpscale_ok_scl s
    rw [← State.mem_scl, ← State.mem_scl] at hscl
    refine State.read_of_not_written hscl rfl fun v hm => ?_
    obtain ⟨y, hy, x, hx, rfl⟩ := exists_eq_sclIndex (upscaleWrites_lt s _ hm)
    exact ha y hy x hx rfl
  · exact ⟨⟨rfl, rfl, rfl, rfl, rfl⟩, fun _ => rfl, fun _ => rfl, fun _ _ => rfl, rfl, rfl, rfl, rfl, rfl, rfl, rfl, rfl,
      fun h => absurd rfl h⟩

end Sys2Proof.Machine

/-!
PROOFS. The statements of the BMP encoder family. An emission that completes leaves its file at the end of the output and
nothing else but the registers of completion and its counters (`emissionDone`), so the file, the frame and a second
emission's file are read off one state. An emission is ignored, completes or faults (`emission_cases`). A file's marks are
those of its pixel bytes (`markLast_append`), and its header is 46 literal bytes, the parameter and the colour table.
-/

namespace Sys2Proof.Machine

open Sys2Proof.Safety

/-! ## The header (R55 to R57) -/

/-- The colour table stands after the file header's 14 and the DIB header's 124 bytes. -/
theorem drop_138_bmpHeader (p : Params) (scale : Bool) : (bmpHeader p scale).drop 138 = bmpColourTable p := by
  refine List.drop_left' ?_
  simp [bmpFileHeader, bmpDibHeader, u32le, u16le]

/-- Settles O36: the header ends with the colour table. -/
theorem colourTableIsWhiteThenBlack : Obligations.ColourTableIsWhiteThenBlack := drop_138_bmpHeader

/-- The parameter `BMP_DIB_TAIL` stands after 46 bytes. -/
theorem take_92_drop_46_bmpHeader (p : Params) (scale : Bool) :
    ((bmpHeader p scale).drop 46).take 92 = p.dibTail.toList := by
  have hdrop : (bmpHeader p scale).drop 46 = p.dibTail.toList ++ bmpColourTable p := rfl
  rw [hdrop, List.take_left' (by simp)]

/-- Settles O35: up to the parameter the bytes are literal in either mode; the parameter and the colour table follow. -/
theorem bmpHeaderFields : Obligations.BmpHeaderFields := by
  intro p scale
  have htable := drop_138_bmpHeader p scale
  have hblack : (bmpHeader p scale).drop 142 = [0x00, 0x00, 0x00, p.palA] := by
    rw [show 142 = 138 + 4 from rfl, ← List.drop_drop, htable]
    rfl
  dsimp only
  rw [bmpHeader_length, htable, hblack, take_92_drop_46_bmpHeader]
  cases scale <;>
    exact ⟨rfl, rfl, rfl, rfl, rfl, rfl, rfl, rfl, rfl, rfl, rfl, rfl, rfl, rfl, rfl, rfl, rfl, rfl⟩

/-! ## The bytes of a file (R43, R58, R59) -/

/-- Before a last part that is not empty no byte of a file carries the mark. -/
theorem markLast_append (hd : List Byte) {body : List Byte} (hb : body ≠ []) :
    markLast (hd ++ body) = hd.map (fun v => (v, false)) ++ markLast body := by
  have hpos := List.length_pos_iff.2 hb
  refine List.ext_getElem? fun k => ?_
  rw [markLast_getElem?, List.length_append]
  rcases Nat.lt_or_ge k hd.length with hk | hk
  · rw [List.getElem?_append_left hk, List.getElem?_append_left (by simpa using hk), List.getElem?_map,
      beq_false_of_ne (by omega)]
  · rw [List.getElem?_append_right hk, List.getElem?_append_right (by simpa using hk), markLast_getElem?,
      List.length_map, beq_eq_beq.2 (show k + 1 = hd.length + body.length ↔ k - hd.length + 1 = body.length by omega)]

/-- A file's header, byte by byte. -/
theorem markLast_header (hd : List Byte) {body : List Byte} (hb : body ≠ []) {o : Nat} (ho : o < hd.length) :
    (markLast (hd ++ body))[o]? = hd[o]?.map fun v => (v, false) := by
  rw [markLast_append hd hb, List.getElem?_append_left (by simpa using ho), List.getElem?_map]

/-- A file after its header, byte by byte. -/
theorem markLast_body {hd body : List Byte} {n k : Nat} (hn : hd.length = n) {v : Byte} (hv : body[k]? = some v) :
    (markLast (hd ++ body))[n + k]? = some (v, k + 1 == body.length) := by
  have hb : body ≠ [] := by rintro rfl; simp at hv
  rw [markLast_append hd hb, List.getElem?_append_right (by simp [hn]), List.length_map, hn, Nat.add_sub_cancel_left,
    markLast_getElem?_eq hv]

/-- The header bytes of a file appended to an output. -/
theorem header_bytes_appended (out : List (Byte × Bool)) (hd body : List Byte) {o n : Nat} (h : o + n ≤ hd.length) :
    (((out ++ markLast (hd ++ body)).drop (out.length + o)).take n).map Prod.fst = (hd.drop o).take n := by
  rw [List.drop_length_add_append, List.map_take, List.map_drop, markLast_map_fst,
    List.drop_append_of_le_length (by omega), List.take_append_of_le_length (by rw [List.length_drop]; omega)]

/-- The whole header of a file just appended. -/
theorem header_appended (out : List (Byte × Bool)) (p : Params) (scale : Bool) (body : List Byte) :
    (((out ++ markLast (bmpHeader p scale ++ body)).drop out.length).take 146).map Prod.fst = bmpHeader p scale :=
  (header_bytes_appended out _ body (o := 0) (by simp)).trans (List.take_of_length_le (by simp))

/-! ## What an emission answers (R58, R59, R64) -/

/-- The block after the command of word `w` has emitted the file `bs`: its counters are last at row `r` and column `c`,
and everything not named is as it was. -/
def State.emissionDone (s : State) (w : Byte) (r c : BitVec 6) (bs : List Byte) : State :=
  { s with
    phase := .idle, cmdreg := w, stage := .none, row := r, col := c, done := true
    output := s.output ++ markLast bs, outcnt := BitVec.ofNat 19 bs.length }

theorem execEmitBmpR_done {s : State} (hi : s.phase = .idle) (hv : s.rawV = true) (hs : s.sinkOk = true) :
    exec .emitBmpR s = .next (s.emissionDone 0x04 63 59 (bmpRawFile s)) := execEmitBmpR_ok hi hv hs

theorem execEmitBmpS_done {s : State} (hi : s.phase = .idle) (hv : s.sclV = true) (hs : s.sinkOk = true) :
    exec .emitBmpS s = .next (s.emissionDone 0x0C s.row s.col (bmpScaledFile s)) := execEmitBmpS_ok hi hv hs

theorem execEmitPcx_done {s : State} (hi : s.phase = .idle) (hv : s.rawV = true) (hs : s.sinkOk = true) :
    exec .emitPcx s = .next (s.emissionDone 0x05 63 59 (pcxFile s)) := execEmitPcx_ok hi hv hs

/-- What an emission appends is its file. -/
theorem State.drop_emissionDone_output (s : State) (w : Byte) (r c : BitVec 6) (bs : List Byte) :
    (s.emissionDone w r c bs).output.drop s.output.length = markLast bs := List.drop_left

/-- After an emission the raw-mode file is what it was: the parameters and `RAW` are. -/
@[simp] theorem bmpRawFile_emissionDone (s : State) (w : Byte) (r c : BitVec 6) (bs : List Byte) :
    bmpRawFile (s.emissionDone w r c bs) = bmpRawFile s := rfl

/-- After an emission the scaled-mode file is what it was: the parameters and `SCL` are. -/
@[simp] theorem bmpScaledFile_emissionDone (s : State) (w : Byte) (r c : BitVec 6) (bs : List Byte) :
    bmpScaledFile (s.emissionDone w r c bs) = bmpScaledFile s := rfl

/-- Settles O37: the header, then the pixel bytes with the rows reversed, and the rest is what completion leaves. -/
theorem emitBmpRawFile : Obligations.EmitBmpRawFile := by
  intro s hi hv hs
  have hne : bmpRawPixels (s.read .raw) ≠ [] := List.ne_nil_of_length_pos (by simp)
  refine ⟨_, markLast (bmpRawFile s), execEmitBmpR_done hi hv hs, rfl, by simp,
    fun o ho => markLast_header _ hne (by simpa using ho), fun r hr b hb => ?_,
    rfl, rfl, rfl, rfl, rfl, rfl, rfl, rfl, congrArg (BitVec.ofNat 19) (bmpRawFile_length s), rfl, rfl⟩
  have hlast : (r * 60 + b + 1 == 3840) = decide (r = 63 ∧ b = 59) := decide_eq_decide.2 (by omega)
  rw [Nat.add_assoc, bmpRawFile, markLast_body (bmpHeader_length _ _) (bmpRawPixels_getElem? _ hr hb),
    bmpRawPixels_length, hlast]

/-- Settles O38: the header, then `SCL` in flat order, and the rest is what completion leaves. -/
theorem emitBmpScaledFile : Obligations.EmitBmpScaledFile := by
  intro s hi hv hs
  have hne : s.readFlat .scl 276480 ≠ [] := List.ne_nil_of_length_pos (by simp)
  refine ⟨_, markLast (bmpScaledFile s), execEmitBmpS_done hi hv hs, rfl, by simp,
    fun o ho => markLast_header _ hne (by simpa using ho), fun d hd => ?_,
    rfl, rfl, rfl, rfl, rfl, rfl, rfl, rfl, congrArg (BitVec.ofNat 19) (bmpScaledFile_length s), rfl, rfl⟩
  have hlast : (d + 1 == 276480) = decide (d = 276479) := decide_eq_decide.2 (by omega)
  rw [bmpScaledFile, markLast_body (bmpHeader_length _ _) (State.readFlat_getElem? s .scl hd), State.readFlat_length,
    hlast]

/-- Settles O40: the lengths are the files', and the size fields are read from the header in the output. -/
theorem bmpLengthsAndNominalSizes : Obligations.BmpLengthsAndNominalSizes := by
  intro s hi hs
  refine ⟨fun hv => ⟨_, execEmitBmpR_done hi hv hs, by simp [State.emissionDone], ?_, ?_⟩,
    fun hv => ⟨_, execEmitBmpS_done hi hv hs, by simp [State.emissionDone], ?_, ?_⟩⟩
  all_goals exact (header_bytes_appended _ _ _ (by simp)).trans rfl

/-- Settles O43: after an emission the parameters and the buffers are as before, so the next one's file is the same. -/
theorem headerKeepsNoTrace : Obligations.HeaderKeepsNoTrace := by
  intro s hi hr hsc hs
  refine ⟨_, _, _, _, execEmitBmpS_done hi hsc hs, execEmitBmpR_done rfl hr hs, execEmitBmpR_done hi hr hs,
    execEmitBmpS_done rfl hsc hs, header_appended _ _ _ _, header_appended _ _ _ _, ?_, ?_⟩
  · rw [State.drop_emissionDone_output, State.drop_emissionDone_output, bmpRawFile_emissionDone]
  · rw [State.drop_emissionDone_output, State.drop_emissionDone_output, bmpScaledFile_emissionDone]

/-! ## What an emission leaves unchanged (R34) -/

/-- A gated emission completes, finds its operand invalid or finds the sink refusing. -/
theorem gated_cases {o : Host.Outcome State Fault Refusal} {v k : Bool} {done invalid refused t : State}
    (hdone : v = true → k = true → o = .next done) (hinvalid : v = false → o = .next invalid)
    (hrefused : v = true → k = false → o = .next refused) (ht : o = .next t) :
    t = done ∨ t = invalid ∨ t = refused := by
  cases hv : v with
  | false => exact .inr (.inl (Host.Outcome.next.inj (ht.symm.trans (hinvalid hv))))
  | true =>
    cases hk : k with
    | true => exact .inl (Host.Outcome.next.inj (ht.symm.trans (hdone hv hk)))
    | false => exact .inr (.inr (Host.Outcome.next.inj (ht.symm.trans (hrefused hv hk))))

/-- An emission is ignored, it completes, the flat one with the row and the column as they were, or it faults at a gate. -/
theorem emission_cases {i : Instr} {s t : State} (hi : i ∈ [Instr.emitBmpR, .emitBmpS, .emitPcx])
    (ht : exec i s = .next t) :
    t = s ∨
    (∃ r c bs, t = s.emissionDone (encode i) r c bs ∧ (i = .emitBmpS → r = s.row ∧ c = s.col)) ∨
    ∃ st e info, t = ((s.accept (encode i)).enterStage st).raise e info := by
  by_cases hp : s.phase = .idle
  · refine .inr ?_
    simp only [List.mem_cons, List.not_mem_nil, or_false] at hi
    obtain rfl | rfl | rfl := hi
    · rcases gated_cases (execEmitBmpR_done hp) (execEmitBmpR_invalid hp) (execEmitBmpR_refused hp) ht with
        rfl | rfl | rfl
      exacts [.inl ⟨_, _, _, rfl, nofun⟩, .inr ⟨_, _, _, rfl⟩, .inr ⟨_, _, _, rfl⟩]
    · rcases gated_cases (execEmitBmpS_done hp) (execEmitBmpS_invalid hp) (execEmitBmpS_refused hp) ht with
        rfl | rfl | rfl
      exacts [.inl ⟨_, _, _, rfl, fun _ => ⟨rfl, rfl⟩⟩, .inr ⟨_, _, _, rfl⟩, .inr ⟨_, _, _, rfl⟩]
    · rcases gated_cases (execEmitPcx_done hp) (execEmitPcx_invalid hp) (execEmitPcx_refused hp) ht with
        rfl | rfl | rfl
      exacts [.inl ⟨_, _, _, rfl, nofun⟩, .inr ⟨_, _, _, rfl⟩, .inr ⟨_, _, _, rfl⟩]
  · exact .inl (Host.Outcome.next.inj (ht.symm.trans (exec_not_idle i hp)))

/-- Settles O44: an ignored emission changes nothing, one that completes changes what `emissionDone` names, and one that
does not pass its gates emits nothing. -/
theorem emissionFrame : Obligations.EmissionFrame := by
  intro i s t hi ht
  obtain rfl | ⟨r, c, bs, rfl, hplace⟩ | ⟨st, e, info, rfl⟩ := emission_cases hi ht
  · exact ⟨⟨rfl, rfl, rfl, rfl, rfl⟩, fun _ => rfl, fun _ => rfl, fun _ => rfl, rfl, rfl, rfl, rfl, rfl, rfl, rfl,
      ⟨[], (List.append_nil _).symm⟩, fun _ => ⟨rfl, rfl⟩, fun _ => ⟨rfl, rfl⟩⟩
  · exact ⟨⟨rfl, rfl, rfl, rfl, rfl⟩, fun _ => rfl, fun _ => rfl, fun _ => rfl, rfl, rfl, rfl, rfl, rfl, rfl, rfl,
      ⟨markLast bs, rfl⟩, hplace, fun _ => ⟨rfl, rfl⟩⟩
  · exact ⟨⟨rfl, rfl, rfl, rfl, rfl⟩, fun _ => rfl, fun _ => rfl, fun _ => rfl, rfl, rfl, rfl, rfl, rfl, rfl, rfl,
      ⟨[], (List.append_nil _).symm⟩, fun _ => ⟨rfl, rfl⟩, fun h => absurd rfl h⟩

end Sys2Proof.Machine

/-!
PROOFS. The statements of the PCX encoder family. EMITPCX leaves `emissionDone` of `pcxFile`, so its statements are read
off the file: the header parameter (`pcxFile_header`) and 3840 pairs in source order (`pcxFile_pair`).
-/

namespace Sys2Proof.Machine

/-! ## The PCX file and its header parameter (R62 to R65) -/

/-- The header of the PCX file is the parameter, byte by byte. -/
theorem pcxFile_header (s : State) (o : Fin 128) :
    (markLast (pcxFile s))[o.val]? = some (s.params.pcxHdr[o], false) := by
  have hne : pcxPairs (s.read .raw) ≠ [] := List.ne_nil_of_length_pos (by simp)
  rw [pcxFile, markLast_header _ hne (by simp)]
  simp

/-- The pair of packed byte `r*60 + b` in the PCX file: the marker, then the byte, marked in the last pair only. -/
theorem pcxFile_pair (s : State) {r b : Nat} (hr : r < 64) (hb : b < 60) :
    (markLast (pcxFile s))[128 + 2 * (r * 60 + b)]? = some (0xC1, false) ∧
      (markLast (pcxFile s))[129 + 2 * (r * 60 + b)]?
        = some (s.read .raw (rawIndex r b), decide (r = 63 ∧ b = 59)) := by
  obtain ⟨hmarker, hbyte⟩ := pcxPairs_getElem? (s.read .raw) hr hb
  have hfirst : (2 * (r * 60 + b) + 1 == 7680) = false := beq_false_of_ne (by omega)
  have hlast : (2 * (r * 60 + b) + 1 + 1 == 7680) = decide (r = 63 ∧ b = 59) := decide_eq_decide.2 (by omega)
  refine ⟨?_, ?_⟩
  · rw [pcxFile, markLast_body s.params.pcxHdr.length_toList hmarker, pcxPairs_length, hfirst, pcxRun]
  · rw [show 129 + 2 * (r * 60 + b) = 128 + (2 * (r * 60 + b) + 1) by omega, pcxFile,
      markLast_body s.params.pcxHdr.length_toList hbyte, pcxPairs_length, hlast]

/-- Settles O39: the header, then the pairs in source order, and the rest is what completion leaves. -/
theorem emitPcxFile : Obligations.EmitPcxFile := by
  intro s hi hv hs
  exact ⟨_, markLast (pcxFile s), execEmitPcx_done hi hv hs, rfl, by simp, pcxFile_header s,
    fun r hr b hb => pcxFile_pair s hr hb,
    rfl, rfl, rfl, rfl, rfl, rfl, rfl, rfl, congrArg (BitVec.ofNat 19) (pcxFile_length s), rfl, rfl⟩

/-- Settles O41: the file's length does not depend on the frame. -/
theorem pcxLength : Obligations.PcxLength := by
  intro s hi hv hs
  exact ⟨_, execEmitPcx_done hi hv hs, by simp [State.emissionDone]⟩

/-- Settles O42: the depth, the bounds, the plane and the palette of the default each pass their check. -/
theorem defaultPcxHeaderMeetsConstraints : Obligations.DefaultPcxHeaderMeetsConstraints := by
  have hdepth : defaultParams.pcxDepthOk = true := by decide
  have hbounds : defaultParams.pcxBoundsOk = true := by decide
  have hplanes : defaultParams.pcxPlanesOk = true := by decide
  have hpalette : defaultParams.pcxPaletteOk = true := by decide
  simp [Obligations.DefaultPcxHeaderMeetsConstraints, Params.wellFormed, hdepth, hbounds, hplanes, hpalette]

end Sys2Proof.Machine

/-!
PROOFS. The statements of the pipeline family. A primitive inside a chain does what its command does alone, but for the
word in `CMDREG` (`unpack_chained` and its like), so a pipeline on a whole frame answers what its last command answers
after the ones before it (`execConvBmpS_script` and its like), whatever the sink's level. The bytes, the faults and the
frame of a pipeline are then those of its primitives.
-/

namespace Sys2Proof.Machine

open Sys2Proof.Safety

/-! ## A primitive inside a chain (R67) -/

/-- The block after a LOAD of a whole frame. -/
def State.loaded (s : State) : State := (loadFull (loadEnter (s.accept 0x01))).complete

/-- The block after an UNPACK of a valid `RAW`. -/
def State.unpacked (s : State) : State := (unpackBody (unpackStart ((s.accept 0x02).enterStage .unpack))).complete

/-- The block after an UPSCALE of a valid `UNP`. -/
def State.upscaled (s : State) : State := (upscaleBody (upscaleStart ((s.accept 0x03).enterStage .upscale))).complete

section

variable {s t : State}

theorem execLoad_loaded (hi : s.phase = .idle) (hl : 4096 ≤ s.input.length) : exec .load s = .next s.loaded :=
  execLoad_long hi hl

theorem execUnpack_unpacked (hi : s.phase = .idle) (hv : s.rawV = true) : exec .unpack s = .next s.unpacked :=
  execUnpack_ok hi hv

theorem execUpscale_upscaled (hi : s.phase = .idle) (hv : s.unpV = true) : exec .upscale s = .next s.upscaled :=
  execUpscale_ok hi hv

/-- LOAD at the head of the chain of word `w` leaves what it leaves alone, as the chain goes on from there. -/
theorem load_chained (hl : 4096 ≤ s.input.length) (w : Byte) :
    load (s.accept w) = (s.loaded.accept w).enterStage .load := load_long hl

/-- UNPACK in the chain of word `w`: what it writes depends on neither `CMDREG` nor `STAGE`. -/
theorem unpack_chained (hv : s.rawV = true) (w : Byte) (st : Stage) :
    unpack ((s.accept w).enterStage st) = (s.unpacked.accept w).enterStage .unpack := by
  rw [unpack_ok (s := (s.accept w).enterStage st) rfl hv]
  simp only [State.unpacked, State.accept, State.enterStage, State.complete, unpackBody, unpackStart]
  rfl

/-- UPSCALE in the chain of word `w`: what it writes depends on neither `CMDREG` nor `STAGE`. -/
theorem upscale_chained (hv : s.unpV = true) (w : Byte) (st : Stage) :
    upscale ((s.accept w).enterStage st) = (s.upscaled.accept w).enterStage .upscale := by
  rw [upscale_ok (s := (s.accept w).enterStage st) rfl hv]
  simp only [State.upscaled, State.accept, State.enterStage, State.complete, upscaleBody, upscaleStart]
  rfl

/-- EMITBMP.R at the end of the chain of word `w` ends as it ends alone, whether or not the sink accepts. -/
theorem emitBmpR_chained (hi : s.phase = .idle) (hv : s.rawV = true) (ht : exec .emitBmpR s = .next t)
    (w : Byte) (st : Stage) :
    (emitBmpR ((s.accept w).enterStage st)).andThen State.complete = { t with cmdreg := w } := by
  cases hs : s.sinkOk with
  | true =>
    obtain rfl := Host.Outcome.next.inj ((execEmitBmpR_ok hi hv hs).symm.trans ht)
    exact congrArg (State.andThen · State.complete) (emitBmpR_ok (s := (s.accept w).enterStage st) rfl hv hs)
  | false =>
    obtain rfl := Host.Outcome.next.inj ((execEmitBmpR_refused hi hv hs).symm.trans ht)
    exact congrArg (State.andThen · State.complete) (emitBmpR_refused (s := (s.accept w).enterStage st) rfl hv hs)

/-- EMITBMP.S at the end of the chain of word `w` ends as it ends alone, whether or not the sink accepts. -/
theorem emitBmpS_chained (hi : s.phase = .idle) (hv : s.sclV = true) (ht : exec .emitBmpS s = .next t)
    (w : Byte) (st : Stage) :
    (emitBmpS ((s.accept w).enterStage st)).andThen State.complete = { t with cmdreg := w } := by
  cases hs : s.sinkOk with
  | true =>
    obtain rfl := Host.Outcome.next.inj ((execEmitBmpS_ok hi hv hs).symm.trans ht)
    exact congrArg (State.andThen · State.complete) (emitBmpS_ok (s := (s.accept w).enterStage st) rfl hv hs)
  | false =>
    obtain rfl := Host.Outcome.next.inj ((execEmitBmpS_refused hi hv hs).symm.trans ht)
    exact congrArg (State.andThen · State.complete) (emitBmpS_refused (s := (s.accept w).enterStage st) rfl hv hs)

/-- EMITPCX at the end of the chain of word `w` ends as it ends alone, whether or not the sink accepts. -/
theorem emitPcx_chained (hi : s.phase = .idle) (hv : s.rawV = true) (ht : exec .emitPcx s = .next t)
    (w : Byte) (st : Stage) :
    (emitPcx ((s.accept w).enterStage st)).andThen State.complete = { t with cmdreg := w } := by
  cases hs : s.sinkOk with
  | true =>
    obtain rfl := Host.Outcome.next.inj ((execEmitPcx_ok hi hv hs).symm.trans ht)
    exact congrArg (State.andThen · State.complete) (emitPcx_ok (s := (s.accept w).enterStage st) rfl hv hs)
  | false =>
    obtain rfl := Host.Outcome.next.inj ((execEmitPcx_refused hi hv hs).symm.trans ht)
    exact congrArg (State.andThen · State.complete) (emitPcx_refused (s := (s.accept w).enterStage st) rfl hv hs)

/-! ## A pipeline and the script of its primitives (R67) -/

/-- CONVBMP.R on a whole frame is LOAD; EMITBMP.R, but for `CMDREG`. -/
theorem execConvBmpR_script (hi : s.phase = .idle) (hl : 4096 ≤ s.input.length)
    (ht : exec .emitBmpR s.loaded = .next t) : exec .convBmpR s = .next { t with cmdreg := 0x14 } := by
  have hchain : convBmpR (s.accept 0x14) = emitBmpR ((s.loaded.accept 0x14).enterStage .load) := by
    rw [convBmpR, load_chained hl, State.andThen_run _ (by rfl)]
  rw [← emitBmpR_chained rfl rfl ht 0x14 .load, ← hchain]
  exact command_idle hi

/-- CONVPCX on a whole frame is LOAD; EMITPCX, but for `CMDREG`. -/
theorem execConvPcx_script (hi : s.phase = .idle) (hl : 4096 ≤ s.input.length)
    (ht : exec .emitPcx s.loaded = .next t) : exec .convPcx s = .next { t with cmdreg := 0x15 } := by
  have hchain : convPcx (s.accept 0x15) = emitPcx ((s.loaded.accept 0x15).enterStage .load) := by
    rw [convPcx, load_chained hl, State.andThen_run _ (by rfl)]
  rw [← emitPcx_chained rfl rfl ht 0x15 .load, ← hchain]
  exact command_idle hi

/-- CONVBMP.S on a whole frame is LOAD; UNPACK; UPSCALE; EMITBMP.S, but for `CMDREG`. -/
theorem execConvBmpS_script (hi : s.phase = .idle) (hl : 4096 ≤ s.input.length)
    (ht : exec .emitBmpS s.loaded.unpacked.upscaled = .next t) :
    exec .convBmpS s = .next { t with cmdreg := 0x1C } := by
  have hchain : convBmpS (s.accept 0x1C) =
      emitBmpS ((s.loaded.unpacked.upscaled.accept 0x1C).enterStage .upscale) := by
    rw [convBmpS, load_chained hl, State.andThen_run unpack (by rfl), unpack_chained (by rfl),
      State.andThen_run upscale (by rfl), upscale_chained (by rfl), State.andThen_run emitBmpS (by rfl)]
  rw [← emitBmpS_chained rfl rfl ht 0x1C .upscale, ← hchain]
  exact command_idle hi

end

/-- Settles O48: each state of the script is the one the next command starts from. -/
theorem chainEqualsScript : Obligations.ChainEqualsScript := by
  intro s hi hl hs
  exact ⟨⟨_, _, _, _, execLoad_loaded hi hl, execUnpack_unpacked rfl rfl, execUpscale_upscaled rfl rfl,
      execEmitBmpS_done rfl rfl hs, execConvBmpS_script hi hl (execEmitBmpS_done rfl rfl hs)⟩,
    ⟨_, _, execLoad_loaded hi hl, execEmitBmpR_done rfl rfl hs,
      execConvBmpR_script hi hl (execEmitBmpR_done rfl rfl hs)⟩,
    ⟨_, _, execLoad_loaded hi hl, execEmitPcx_done rfl rfl hs,
      execConvPcx_script hi hl (execEmitPcx_done rfl rfl hs)⟩⟩

/-! ## From input bytes to buffers (R68 to R70) -/

/-- A source of fewer than 4096 bytes faults with their number (R72). -/
theorem loadShort_errinfo_toNat {s : State} (hl : s.input.length < 4096) :
    (loadShort s).errinfo.toNat = s.input.length := by
  rw [loadShort_errinfo, BitVec.toNat_ofNat]
  omega

/-- LOAD of the frame `d` consumes it. -/
theorem loaded_input {s : State} {d rest : List Byte} (hin : s.input = d ++ rest) (hd : d.length = 4096) :
    s.loaded.input = rest :=
  (congrArg (List.drop 4096) hin).trans (List.drop_left' hd)

section

variable {s : State} {d rest : List Byte} (hi : s.phase = .idle) (hin : s.input = d ++ rest) (hd : d.length = 4096)
include hi hin hd

/-- After the LOAD of the frame `d` every pixel cell of `RAW` holds its byte of `d`. -/
theorem loaded_read_raw {r b : Nat} (hr : r < 64) (hb : b < 60) :
    s.loaded.read .raw (rawIndex r b) = d.getD (r * 64 + b) 0 := by
  have hl : 4096 ≤ s.input.length := by simp [hin, hd]
  have hv := execLoad_read_raw hi hl (execLoad_loaded hi hl) hr hb
  rw [hin, List.getElem?_append_left (by omega)] at hv
  rw [List.getD_eq_getElem?_getD, hv, Option.getD_some]

/-- After LOAD; UNPACK of the frame `d` every pixel of `UNP` is the bit of the flipped row. -/
theorem unpacked_read_unp {r c : Nat} (hr : r < 64) (hc : c < 480) :
    s.loaded.unpacked.read .unp (unpIndex r c) = (d.getD ((63 - r) * 64 + c / 8) 0 >>> (7 - c % 8)) &&& 1 := by
  rw [execUnpack_read_unp rfl rfl (execUnpack_unpacked rfl rfl) hr hc, State.bitGrid,
    loaded_read_raw hi hin hd (by omega) (by omega)]

/-- After LOAD; UNPACK; UPSCALE of the frame `d` the cell before flat index `e` is the pixel formula of R68. -/
theorem upscaled_read_scl {e : Nat} (h1 : 1 ≤ e) (he : e ≤ 276479) :
    s.loaded.unpacked.upscaled.read .scl (e - 1) =
      (d.getD ((63 - e / 1440 / 3) * 64 + e % 1440 / 3 / 8) 0 >>> (7 - e % 1440 / 3 % 8)) &&& 1 := by
  rw [execUpscale_read_scl rfl rfl (execUpscale_upscaled rfl rfl) (by omega), Nat.sub_add_cancel h1, tileSource,
    unpacked_read_unp hi hin hd (by omega) (by omega)]

end

/-- Settles O46: CONVBMP.R is LOAD; EMITBMP.R, so its file is that of `RAW` as LOAD fills it. -/
theorem convBmpRawEndToEnd : Obligations.ConvBmpRawEndToEnd := by
  refine ⟨fun s d rest hi hin hd => ?_, fun s hi hl => ⟨_, execConvBmpR_short hi hl, rfl, rfl,
    loadShort_errinfo_toNat hl, rfl, rfl, rfl, rfl, rfl, rfl⟩⟩
  have hl : 4096 ≤ s.input.length := by simp [hin, hd]
  obtain ⟨t, ht⟩ := exec_answers_next .emitBmpR s.loaded
  obtain ⟨-, -, hunp, hscl, hinput, hrawV, hunpV, hsclV, -⟩ := emissionFrame _ _ t (by simp) ht
  refine ⟨_, execConvBmpR_script hi hl ht, hinput.trans (loaded_input hin hd), rfl, hrawV, hunpV, hsclV, hunp, hscl,
    fun hs => ?_, fun hs => ?_⟩
  · obtain ⟨t', file, ht', hout, hlen, hheader, hpixels, -, -, -, -, hdone, hphase, hstage, -, -, herr, hinfo⟩ :=
      emitBmpRawFile s.loaded rfl rfl hs
    obtain rfl := Host.Outcome.next.inj (ht'.symm.trans ht)
    refine ⟨hdone, hphase, hstage, herr, hinfo, file, hout, hlen, hheader, fun r hr b hb => ?_⟩
    rw [hpixels r hr b hb, loaded_read_raw hi hin hd (by omega) hb]
  · obtain rfl := Host.Outcome.next.inj ((execEmitBmpR_refused (s := s.loaded) rfl rfl hs).symm.trans ht)
    exact ⟨rfl, rfl, rfl, rfl, rfl, rfl⟩

/-- Settles O47: CONVPCX is LOAD; EMITPCX, so its file is that of `RAW` as LOAD fills it. -/
theorem convPcxEndToEnd : Obligations.ConvPcxEndToEnd := by
  refine ⟨fun s d rest hi hin hd => ?_, fun s hi hl => ⟨_, execConvPcx_short hi hl, rfl, rfl,
    loadShort_errinfo_toNat hl, rfl, rfl, rfl, rfl, rfl, rfl⟩⟩
  have hl : 4096 ≤ s.input.length := by simp [hin, hd]
  obtain ⟨t, ht⟩ := exec_answers_next .emitPcx s.loaded
  obtain ⟨-, -, hunp, hscl, hinput, hrawV, hunpV, hsclV, -⟩ := emissionFrame _ _ t (by simp) ht
  refine ⟨_, execConvPcx_script hi hl ht, hinput.trans (loaded_input hin hd), rfl, hrawV, hunpV, hsclV, hunp, hscl,
    fun hs => ?_, fun hs => ?_⟩
  · obtain ⟨t', file, ht', hout, hlen, hheader, hpairs, -, -, -, -, hdone, hphase, hstage, -, -, herr, hinfo⟩ :=
      emitPcxFile s.loaded rfl rfl hs
    obtain rfl := Host.Outcome.next.inj (ht'.symm.trans ht)
    refine ⟨hdone, hphase, hstage, herr, hinfo, file, hout, hlen, hheader, fun r hr b hb => ?_⟩
    rw [← loaded_read_raw hi hin hd hr hb]
    exact hpairs r hr b hb
  · obtain rfl := Host.Outcome.next.inj ((execEmitPcx_refused (s := s.loaded) rfl rfl hs).symm.trans ht)
    exact ⟨rfl, rfl, rfl, rfl, rfl, rfl⟩

/-- Settles O45: CONVBMP.S is its script, so its file is that of `SCL` as LOAD; UNPACK; UPSCALE fill it. -/
theorem convBmpScaledEndToEnd : Obligations.ConvBmpScaledEndToEnd := by
  refine ⟨fun s d rest hi hin hd => ?_, fun s hi hl => ⟨_, execConvBmpS_short hi hl, rfl, rfl,
    loadShort_errinfo_toNat hl, rfl, rfl, rfl, rfl, rfl, rfl⟩⟩
  have hl : 4096 ≤ s.input.length := by simp [hin, hd]
  obtain ⟨t, ht⟩ := exec_answers_next .emitBmpS s.loaded.unpacked.upscaled
  obtain ⟨-, -, -, -, hinput, hrawV, hunpV, hsclV, -⟩ := emissionFrame _ _ t (by simp) ht
  refine ⟨_, execConvBmpS_script hi hl ht, hinput.trans (loaded_input hin hd), rfl, hrawV, hunpV, hsclV,
    fun hs => ?_, fun hs => ?_⟩
  · obtain ⟨t', file, ht', hout, hlen, hheader, hcells, -, -, -, -, hdone, hphase, hstage, -, -, herr, hinfo⟩ :=
      emitBmpScaledFile s.loaded.unpacked.upscaled rfl rfl hs
    obtain rfl := Host.Outcome.next.inj (ht'.symm.trans ht)
    refine ⟨hdone, hphase, hstage, herr, hinfo, file, hout, hlen, hheader, fun e h1 he => ?_, ?_⟩
    · rw [Nat.add_sub_assoc h1, hcells (e - 1) (by omega), upscaled_read_scl hi hin hd h1 he,
        decide_eq_false (by omega)]
    · rw [show 276625 = 146 + 276479 from rfl, hcells 276479 (by omega),
        execUpscale_read_scl_last rfl rfl (execUpscale_upscaled rfl rfl), decide_eq_true rfl]
  · obtain rfl := Host.Outcome.next.inj
      ((execEmitBmpS_refused (s := s.loaded.unpacked.upscaled) rfl rfl hs).symm.trans ht)
    exact ⟨rfl, rfl, rfl, rfl, rfl, rfl⟩

/-! ## What a pipeline leaves unchanged (R34, R67) -/

/-- What the primitives leave unchanged, one or several of them: the host's side, the old output, the buffers outside
their cells, and the fault registers unless the last one faults. -/
structure CellFrame (s t : State) : Prop where
  outside : SameOutside s t
  output : ∃ file, t.output = s.output ++ file
  raw : ∀ a, (∀ r < 64, ∀ b < 60, a ≠ rawIndex r b) → t.read .raw a = s.read .raw a
  unp : ∀ a, (∀ r < 64, ∀ c < 480, a ≠ unpIndex r c) → t.read .unp a = s.read .unp a
  scl : ∀ a, (∀ y < 192, ∀ x < 1440, a ≠ sclIndex y x) → t.read .scl a = s.read .scl a
  registers : t.phase ≠ .fault → t.err = s.err ∧ t.errinfo = s.errinfo

section

variable {s t u : State}

/-- What is the host's or the build's is the same through two primitives. -/
theorem sameOutside_trans (h : SameOutside s t) (h' : SameOutside t u) : SameOutside s u where
  sinkOk := h'.sinkOk.trans h.sinkOk
  host := h'.host.trans h.host
  params := h'.params.trans h.params
  epoch := h'.epoch.trans h.epoch
  resetSeen := h'.resetSeen.trans h.resetSeen

/-- The frames of two primitives, the first of which does not fault. -/
theorem CellFrame.trans (h : CellFrame s t) (ht : t.phase ≠ .fault) (h' : CellFrame t u) : CellFrame s u where
  outside := sameOutside_trans h.outside h'.outside
  output := by
    obtain ⟨file, hfile⟩ := h.output
    obtain ⟨file', hfile'⟩ := h'.output
    exact ⟨file ++ file', by rw [hfile', hfile, List.append_assoc]⟩
  raw a ha := (h'.raw a ha).trans (h.raw a ha)
  unp a ha := (h'.unp a ha).trans (h.unp a ha)
  scl a ha := (h'.scl a ha).trans (h.scl a ha)
  registers hu := by
    obtain ⟨herr, hinfo⟩ := h.registers ht
    obtain ⟨herr', hinfo'⟩ := h'.registers hu
    exact ⟨herr'.trans herr, hinfo'.trans hinfo⟩

theorem cellFrame_loaded (hi : s.phase = .idle) (hl : 4096 ≤ s.input.length) : CellFrame s s.loaded := by
  obtain ⟨hout, hunp, hscl, hraw, houtput, -, -, -, hreg⟩ := loadFrame _ _ (execLoad_loaded hi hl)
  exact ⟨hout, ⟨[], by rw [houtput, List.append_nil]⟩, hraw (.inr hl), fun a _ => hunp a, fun a _ => hscl a, hreg⟩

theorem cellFrame_unpacked (hi : s.phase = .idle) (hv : s.rawV = true) : CellFrame s s.unpacked := by
  obtain ⟨hout, hraw, hscl, hunp, -, houtput, -, -, -, -, hreg⟩ := unpackFrame _ _ (execUnpack_unpacked hi hv)
  refine ⟨hout, ⟨[], by rw [houtput, List.append_nil]⟩, fun a _ => hraw a, fun a ha => hunp a fun r hr b hb k hk => ?_,
    fun a _ => hscl a, hreg⟩
  rw [show unpIndex r (b * 8) + k = unpIndex r (b * 8 + k) from Nat.add_assoc ..]
  exact ha r hr _ (by omega)

theorem cellFrame_upscaled (hi : s.phase = .idle) (hv : s.unpV = true) : CellFrame s s.upscaled := by
  obtain ⟨hout, hraw, hunp, hscl, -, houtput, -, -, -, -, -, -, hreg⟩ := upscaleFrame _ _ (execUpscale_upscaled hi hv)
  exact ⟨hout, ⟨[], by rw [houtput, List.append_nil]⟩, fun a _ => hraw a, fun a _ => hunp a, hscl, hreg⟩

theorem cellFrame_emission {i : Instr} (hi : i ∈ [Instr.emitBmpR, .emitBmpS, .emitPcx]) (ht : exec i s = .next t) :
    CellFrame s t := by
  obtain ⟨hout, hraw, hunp, hscl, -, -, -, -, -, -, -, houtput, -, hreg⟩ := emissionFrame i s t hi ht
  exact ⟨hout, houtput, fun a _ => hraw a, fun a _ => hunp a, fun a _ => hscl a, hreg⟩

/-- The three producers of CONVBMP.S on a whole frame. -/
theorem cellFrame_loaded_unpacked_upscaled (hi : s.phase = .idle) (hl : 4096 ≤ s.input.length) :
    CellFrame s s.loaded.unpacked.upscaled :=
  ((cellFrame_loaded hi hl).trans nofun (cellFrame_unpacked rfl rfl)).trans nofun (cellFrame_upscaled rfl rfl)

/-- A pipeline is ignored, its source is too short, or but for `CMDREG` it ends as its emission does: after a LOAD, or
in CONVBMP.S after the three producers. -/
theorem pipeline_cases {i : Instr} (hi : i ∈ [Instr.convBmpR, .convBmpS, .convPcx]) (ht : exec i s = .next t) :
    t = s ∨
    s.phase = .idle ∧ s.input.length < 4096 ∧ t = loadShort (loadEnter (s.accept (encode i))) ∨
    s.phase = .idle ∧ 4096 ≤ s.input.length ∧ ∃ j ∈ [Instr.emitBmpR, .emitBmpS, .emitPcx], ∃ u,
      t = { u with cmdreg := encode i } ∧
      (i ≠ .convBmpS ∧ exec j s.loaded = .next u ∨ i = .convBmpS ∧ exec j s.loaded.unpacked.upscaled = .next u) := by
  by_cases hp : s.phase = .idle
  · simp only [List.mem_cons, List.not_mem_nil, or_false] at hi
    rcases Nat.lt_or_ge s.input.length 4096 with hl | hl
    · refine .inr (.inl ⟨hp, hl, Host.Outcome.next.inj (ht.symm.trans ?_)⟩)
      obtain rfl | rfl | rfl := hi
      exacts [execConvBmpR_short hp hl, execConvBmpS_short hp hl, execConvPcx_short hp hl]
    · refine .inr (.inr ⟨hp, hl, ?_⟩)
      obtain rfl | rfl | rfl := hi
      · obtain ⟨u, hu⟩ := exec_answers_next .emitBmpR s.loaded
        exact ⟨.emitBmpR, by simp, u, Host.Outcome.next.inj (ht.symm.trans (execConvBmpR_script hp hl hu)),
          .inl ⟨nofun, hu⟩⟩
      · obtain ⟨u, hu⟩ := exec_answers_next .emitBmpS s.loaded.unpacked.upscaled
        exact ⟨.emitBmpS, by simp, u, Host.Outcome.next.inj (ht.symm.trans (execConvBmpS_script hp hl hu)),
          .inr ⟨rfl, hu⟩⟩
      · obtain ⟨u, hu⟩ := exec_answers_next .emitPcx s.loaded
        exact ⟨.emitPcx, by simp, u, Host.Outcome.next.inj (ht.symm.trans (execConvPcx_script hp hl hu)),
          .inl ⟨nofun, hu⟩⟩
  · exact .inl (Host.Outcome.next.inj (ht.symm.trans (exec_not_idle i hp)))

end

/-- Settles O49: an ignored pipeline changes nothing, a short source faults in LOAD, and the frame of a script is that
of its commands. -/
theorem pipelineFrame : Obligations.PipelineFrame := by
  intro i s t hi ht
  obtain rfl | ⟨hp, hl, rfl⟩ | ⟨hp, hl, j, hj, u, rfl, hu⟩ := pipeline_cases hi ht
  · exact ⟨⟨rfl, rfl, rfl, rfl, rfl⟩, ⟨[], (List.append_nil _).symm⟩, fun _ _ _ => rfl, fun _ _ => rfl, fun _ _ => rfl,
      fun _ => ⟨fun _ => rfl, fun _ => rfl, rfl, rfl⟩, fun _ => ⟨rfl, rfl⟩⟩
  · exact ⟨⟨rfl, rfl, rfl, rfl, rfl⟩, ⟨[], (List.append_nil _).symm⟩, fun h => absurd h (by simp [hp, hl]),
      fun _ _ => rfl, fun _ _ => rfl, fun _ => ⟨fun _ => rfl, fun _ => rfl, rfl, rfl⟩, fun h => absurd rfl h⟩
  · have hframe : CellFrame s u := by
      obtain ⟨-, hu⟩ | ⟨-, hu⟩ := hu
      · exact (cellFrame_loaded hp hl).trans nofun (cellFrame_emission hj hu)
      · exact (cellFrame_loaded_unpacked_upscaled hp hl).trans nofun (cellFrame_emission hj hu)
    obtain ⟨⟨hsink, hhost, hparams, hepoch, hseen⟩, houtput, hraw, hunp, hscl, hreg⟩ := hframe
    refine ⟨⟨hsink, hhost, hparams, hepoch, hseen⟩, houtput, fun _ => hraw, hunp, hscl, fun hne => ?_, hreg⟩
    obtain ⟨-, hu⟩ | ⟨he, -⟩ := hu
    · obtain ⟨-, -, hunp, hscl, -, -, -, -, -, hidx, hstart, -⟩ := emissionFrame j _ u hj hu
      exact ⟨hunp, hscl, hidx, hstart⟩
    · exact absurd he hne

end Sys2Proof.Machine

/-!
PROOFS. The statements of the exception family. No primitive takes a block that is not idle to idle (`NeverIdle`), so a
whole command completes or faults, and either raises `IRQ`. The faults of the commands are those of their gates and of
LOAD's short source. A faulted block answers every act of the host but a reset with what it was (`react_faulted`): a
fault is sticky, and only a reset leaves it.
-/

namespace Sys2Proof.Machine

open Sys2Proof.Safety

/-! ## Fault entry (R71, R76) -/

/-- Settles O15: fault entry is these three updates. -/
theorem faultEntryWritesThreeRegisters : Obligations.FaultEntryWritesThreeRegisters :=
  ⟨fun _ _ _ => rfl, rfl, rfl, rfl, rfl⟩

/-! ## The causes (R72, R73, R75) -/

/-- Settles O16: the operand gate is the first test of each primitive that reads a buffer. -/
theorem invalidOperandFaultsFirst : Obligations.InvalidOperandFaultsFirst := by
  intro i st b s hmem hi hv
  simp only [List.mem_cons, List.not_mem_nil, or_false, Prod.mk.injEq] at hmem
  obtain ⟨rfl, rfl, rfl⟩ | ⟨rfl, rfl, rfl⟩ | ⟨rfl, rfl, rfl⟩ | ⟨rfl, rfl, rfl⟩ | ⟨rfl, rfl, rfl⟩ := hmem
  · exact execUnpack_invalid hi hv
  · exact execUpscale_invalid hi hv
  · exact execEmitBmpR_invalid hi hv
  · exact execEmitBmpS_invalid hi hv
  · exact execEmitPcx_invalid hi hv

/-- Settles O17: an emission whose operand gate passes faults at the sink's, before its counters are set. -/
theorem refusingSinkFaults : Obligations.RefusingSinkFaults := by
  intro i st b s hmem hi hv hs
  simp only [List.mem_cons, List.not_mem_nil, or_false, Prod.mk.injEq] at hmem
  obtain ⟨rfl, rfl, rfl⟩ | ⟨rfl, rfl, rfl⟩ | ⟨rfl, rfl, rfl⟩ := hmem
  · exact execEmitBmpR_refused hi hv hs
  · exact execEmitBmpS_refused hi hv hs
  · exact execEmitPcx_refused hi hv hs

/-- A command that begins with LOAD ends in that LOAD when the source is short, whatever would have followed. -/
theorem exec_short {i : Instr} {s : State} (hmem : i ∈ [Instr.load, .convBmpR, .convBmpS, .convPcx])
    (hi : s.phase = .idle) (hl : s.input.length < 4096) :
    exec i s = .next (loadShort (loadEnter (s.accept (encode i)))) := by
  simp only [List.mem_cons, List.not_mem_nil, or_false] at hmem
  obtain rfl | rfl | rfl | rfl := hmem
  · exact execLoad_short hi hl
  · exact execConvBmpR_short hi hl
  · exact execConvBmpS_short hi hl
  · exact execConvPcx_short hi hl

/-- Settles O18: the four commands end in the same short LOAD, which lists no cell of `RAW` and reads no sink. -/
theorem shortSourceFaults : Obligations.ShortSourceFaults := fun _ s hmem hi hl =>
  ⟨_, exec_short hmem hi hl, rfl, rfl, loadShort_errinfo_toNat hl, rfl, rfl, rfl, rfl, rfl, rfl, rfl, rfl,
    State.read_unlisted rfl, fun ok => exec_short (s := { s with sinkOk := ok }) hmem hi hl⟩

/-! ## A latched fault (R78) -/

theorem stalled_not_run {s : State} (h : s.phase ≠ .run) : stalled s = .next s := by
  unfold stalled
  split_ifs
  · rfl
  · exact quiet_not_run h

/-- A faulted block answers every act of the host but a reset with what it was, but for the sink's level. -/
theorem react_faulted {s : State} {e : HostEvent} (hf : s.phase = .fault) (he : e ≠ .rst) (rest : List HostEvent) :
    ∃ ok, react e rest s = .next { s with host := rest, sinkOk := ok } := by
  have hrun : s.phase ≠ .run := by simp [hf]
  have hidle : s.phase ≠ .idle := by simp [hf]
  cases e with
  | issue w => exact ⟨s.sinkOk, (react_issue_not_run hrun).trans (strobe_not_idle w hidle)⟩
  | pulse w => exact ⟨s.sinkOk, pulse_not_idle w hidle⟩
  | tick => exact ⟨s.sinkOk, quiet_not_run hrun⟩
  | stall => exact ⟨s.sinkOk, stalled_not_run hrun⟩
  | sink ok => exact ⟨ok, rfl⟩
  | rst => exact absurd rfl he

/-- Settles O19: a silent host leaves a faulted block as it is, and so does every act but a reset. -/
theorem faultIsSticky : Obligations.FaultIsSticky := by
  intro s hr hf hh
  cases hhost : s.host with
  | nil => exact ⟨s, (step_nil hr hhost).trans (quiet_not_run (by simp [hf])), rfl⟩
  | cons e rest =>
    obtain ⟨ok, hreact⟩ := react_faulted hf (fun he => hh rest (he ▸ hhost)) rest
    exact ⟨_, (step_cons hr hhost).trans hreact, rfl⟩

/-- Settles O20: without a reset the step is refused before the first reset and keeps the fault after it. -/
theorem onlyResetLeavesFault : Obligations.OnlyResetLeavesFault := by
  intro s t hf ht hne
  by_contra hno
  have hh : ∀ rest, s.host ≠ .rst :: rest := not_exists.1 hno
  cases hr : s.resetSeen with
  | false => exact nomatch (step_before_reset hr hh).symm.trans ht
  | true =>
    obtain ⟨u, hu, hsame⟩ := faultIsSticky s hr hf hh
    obtain rfl := Host.Outcome.next.inj (hu.symm.trans ht)
    exact hne ((congrArg State.phase hsame).trans hf)

/-! ## `IRQ` (R14, R79) -/

/-- `f` takes no block that is not idle to idle, as holds of every part of a command but its completion. -/
def NeverIdle (f : State → State) : Prop := ∀ s : State, s.phase ≠ .idle → (f s).phase ≠ .idle

theorem NeverIdle.of_phase_eq {f : State → State} (h : ∀ s, (f s).phase = s.phase) : NeverIdle f :=
  fun s hs => h s ▸ hs

theorem NeverIdle.andThen {f g : State → State} (hf : NeverIdle f) (hg : NeverIdle g) :
    NeverIdle fun s => (f s).andThen g := by
  intro s hs
  by_cases h : (f s).phase = .run
  · simpa only [State.andThen_run g h] using hg _ (hf s hs)
  · simpa only [State.andThen_stop g h] using hf s hs

theorem neverIdle_requireSink : NeverIdle State.requireSink := by
  intro s hs
  unfold State.requireSink
  split_ifs
  · exact hs
  · simp

/-- The stage and the operand gate a primitive that reads a buffer begins with (R75). -/
theorem neverIdle_operandGate (st : Stage) (b : Buffer) : NeverIdle fun s => (s.enterStage st).requireValid b := by
  intro s hs
  show ((s.enterStage st).requireValid b).phase ≠ .idle
  unfold State.requireValid
  split_ifs
  · exact hs
  · simp

theorem neverIdle_load : NeverIdle load := by
  intro s hs
  rcases Nat.lt_or_ge s.input.length 4096 with hl | hl
  · simp [load_short hl]
  · simpa [load_long hl] using hs

theorem neverIdle_unpack : NeverIdle unpack :=
  ((neverIdle_operandGate .unpack .raw).andThen (.of_phase_eq unpackStart_phase)).andThen
    (.of_phase_eq unpackBody_phase)

theorem neverIdle_upscale : NeverIdle upscale :=
  ((neverIdle_operandGate .upscale .unp).andThen (.of_phase_eq upscaleStart_phase)).andThen
    (.of_phase_eq upscaleBody_phase)

/-- An emission: the operand gate, the sink gate, the counters, the bytes (R58, R59, R64). -/
theorem neverIdle_emission (st : Stage) (b : Buffer) {start body : State → State}
    (hstart : ∀ s, (start s).phase = s.phase) (hbody : ∀ s, (body s).phase = s.phase) :
    NeverIdle fun s =>
      ((((s.enterStage st).requireValid b).andThen State.requireSink).andThen start).andThen body :=
  (((neverIdle_operandGate st b).andThen neverIdle_requireSink).andThen (.of_phase_eq hstart)).andThen
    (.of_phase_eq hbody)

theorem neverIdle_emitBmpR : NeverIdle emitBmpR :=
  neverIdle_emission .emitBmp .raw emitRowsStart_phase fun _ => rfl

theorem neverIdle_emitBmpS : NeverIdle emitBmpS :=
  neverIdle_emission .emitBmp .scl emitFlatStart_phase fun _ => rfl

theorem neverIdle_emitPcx : NeverIdle emitPcx :=
  neverIdle_emission .emitPcx .raw emitRowsStart_phase fun _ => rfl

theorem State.irq_iff (s : State) : s.irq = true ↔ s.done = true ∨ s.phase = .fault := by
  simp [State.irq, State.faulted]

/-- A command whose body never makes the block idle ends with `IRQ` up: the body faults, or the command completes. -/
theorem command_irq {w : Byte} {body : State → State} {s : State} (hb : NeverIdle body) (hi : s.phase = .idle) :
    ∃ t, command w body s = .next t ∧ t.irq = true := by
  refine ⟨_, command_idle hi, (State.irq_iff _).2 ?_⟩
  cases hp : (body (s.accept w)).phase with
  | idle => exact absurd hp (hb _ nofun)
  | run => exact .inl (by rw [State.andThen_run _ hp]; rfl)
  | fault => exact .inr (by rwa [State.andThen_stop _ (by simp [hp])])

theorem exec_irq (i : Instr) {s : State} (hi : s.phase = .idle) : ∃ t, exec i s = .next t ∧ t.irq = true := by
  cases i with
  | load => exact command_irq neverIdle_load hi
  | unpack => exact command_irq neverIdle_unpack hi
  | upscale => exact command_irq neverIdle_upscale hi
  | emitBmpR => exact command_irq neverIdle_emitBmpR hi
  | emitBmpS => exact command_irq neverIdle_emitBmpS hi
  | emitPcx => exact command_irq neverIdle_emitPcx hi
  | convBmpR => exact command_irq (neverIdle_load.andThen neverIdle_emitBmpR) hi
  | convBmpS =>
    exact command_irq (((neverIdle_load.andThen neverIdle_unpack).andThen neverIdle_upscale).andThen
      neverIdle_emitBmpS) hi
  | convPcx => exact command_irq (neverIdle_load.andThen neverIdle_emitPcx) hi

/-- Strobed while idle, a legal word's command completes or faults, and an illegal word faults. -/
theorem strobe_irq (w : Byte) {s : State} (hi : s.phase = .idle) : ∃ t, strobe w s = .next t ∧ t.irq = true := by
  unfold strobe
  cases decode w with
  | ok i => exact exec_irq i hi
  | error e => exact ⟨_, execIllegal_idle w hi, (State.irq_iff _).2 (.inr rfl)⟩

theorem State.irq_eq_false_of_run {s : State} (hp : s.phase = .run) (hd : s.done = false) : s.irq = false := by
  simp [State.irq, State.faulted, hp, hd]

/-- Settles O14: a strobed command completes or faults, a running safe block has done neither, and acceptance and reset
undo both. -/
theorem irqFollowsDoneAndFault : Obligations.IrqFollowsDoneAndFault :=
  ⟨State.irq_iff, fun _ w hi => strobe_irq w hi, fun _ _ => State.irq_eq_false_of_run rfl rfl,
    fun _ h hp => State.irq_eq_false_of_run hp (h.ready hp).done, fun _ => rfl⟩

end Sys2Proof.Machine

/-!
PROOFS. The statements of the family of resets and hazards. A step is read off the host's next act and the phase, so
what it is for each act is `step_nil` or `step_cons` and the one branch of that act. Stalls are taken one by one off
the host's list, and the script of stale buffers is followed through the states its commands leave. The parameters
are kept by every entry and every beat, hence by every step.
-/

namespace Sys2Proof.Machine

/-! ## What a step is, act by act (R38, R74, R82, R84, R85, R86) -/

/-- Settles O9: without a reset the step is refused. -/
theorem nothingRunsBeforeTheFirstReset : Obligations.NothingRunsBeforeTheFirstReset := fun _ hr hh =>
  step_before_reset hr hh

theorem stalled_waits {s : State} (h : s.waitsOnHost = true) : stalled s = .next s := if_pos h

theorem stalled_goes_on {s : State} (h : s.waitsOnHost = false) : stalled s = quiet s := if_neg (by simp [h])

theorem pulse_ok {w : Byte} {i : Instr} (h : decode w = .ok i) (s : State) : pulse w s = .next (begin w s) := by
  rw [pulse, h]

theorem pulse_error {w : Byte} {e : Illegal} (h : decode w = .error e) (s : State) :
    pulse w s = execIllegal w s := by
  rw [pulse, h]

/-- Settles O6: each clause is the branch of its act. -/
theorem stepFollowsTheHost : Obligations.StepFollowsTheHost := by
  intro s rest hr
  refine ⟨fun hh hp => ?_, fun hh hp => ?_, fun w hh hp => ?_, fun hh hp => ?_, fun hh hp => ?_, fun hh hp hw => ?_,
    fun hh hp => ?_, fun ok hh => ?_, fun w e hh hp hd => ?_, fun w i hh hp hd => ?_, fun w e hh hp hd => ?_⟩
  · exact (step_nil hr hh).trans (quiet_not_run hp)
  · exact (step_nil hr hh).trans (quiet_run hp)
  · exact (step_cons hr hh).trans (react_issue_run hp)
  · exact (step_cons hr hh).trans (quiet_run hp)
  · exact (step_cons hr hh).trans (quiet_not_run hp)
  · exact (step_cons hr hh).trans ((stalled_goes_on (s := { s with host := rest }) hw).trans (quiet_run hp))
  · exact (step_cons hr hh).trans (stalled_not_run hp)
  · exact step_cons hr hh
  · exact (step_cons hr hh).trans (react_issue_not_run hp)
  · exact (step_cons hr hh).trans (pulse_ok hd _)
  · exact (step_cons hr hh).trans ((pulse_error hd _).trans (execIllegal_idle w hp))

/-- Settles O7: a command and a pulse are accepted by an idle block only. -/
theorem strobeWhileNotIdleIsIgnored : Obligations.StrobeWhileNotIdleIsIgnored :=
  ⟨fun _ i hp => exec_not_idle i hp, fun _ w _ hr hp hh => (step_cons hr hh).trans (pulse_not_idle w hp)⟩

/-! ## Stalls (R85) -/

/-- A stall of a command that waits on the host is taken off the host's list and changes nothing else. -/
theorem step_stall_waits {s : State} {rest : List HostEvent} (hr : s.resetSeen = true) (hw : s.waitsOnHost = true)
    (hh : s.host = .stall :: rest) : step s = .next { s with host := rest } :=
  (step_cons hr hh).trans (stalled_waits hw)

/-- Settles O8, by induction on the number of stalls: after the first the command waits as before. -/
theorem stalledCommandWaits : Obligations.StalledCommandWaits := by
  intro n
  induction n with
  | zero =>
    rintro s rest - - - hh
    obtain rfl : s.host = rest := hh
    rfl
  | succ n ih =>
    intro s rest hr hp hw hh
    rw [run_next (step_stall_waits hr hw hh)]
    exact ih { s with host := List.replicate n .stall ++ rest } rest hr hp hw rfl

/-! ## Stale buffers (R87) -/

/-- LOAD consumes the 4096 bytes of its frame, UNPACK and UPSCALE none. -/
theorem upscaled_input_length (s : State) :
    s.loaded.unpacked.upscaled.input.length = s.input.length - 4096 := List.length_drop

theorem State.emissionDone_output_length (s : State) (w : Byte) (r c : BitVec 6) (bs : List Byte) :
    (s.emissionDone w r c bs).output.length = s.output.length + bs.length := by
  simp [State.emissionDone]

/-- Settles O50: a second LOAD clears `SCL_V`, so the scaled emission finds its operand invalid; without it each of the
three emissions finds its buffer valid. -/
theorem staleBufferIsRefused : Obligations.StaleBufferIsRefused := by
  intro s hi hs
  refine ⟨fun hl => ?_, fun hl => ?_, ?_, fun hv => ⟨_, execUnpack_unpacked hi hv, rfl, rfl⟩⟩
  · have hsecond : 4096 ≤ s.loaded.unpacked.upscaled.input.length := by rw [upscaled_input_length]; omega
    exact ⟨_, _, _, _, _, execLoad_loaded hi (by omega), execUnpack_unpacked rfl rfl, execUpscale_upscaled rfl rfl,
      execLoad_loaded rfl hsecond, execEmitBmpS_invalid rfl rfl, rfl, rfl, rfl, rfl⟩
  · refine ⟨_, _, _, _, _, _, execLoad_loaded hi hl, execUnpack_unpacked rfl rfl, execUpscale_upscaled rfl rfl,
      execEmitBmpS_done rfl rfl hs, execEmitBmpR_done rfl rfl hs, execEmitPcx_done rfl rfl hs, rfl, rfl, ?_⟩
    have hout : s.loaded.unpacked.upscaled.output = s.output := rfl
    simp only [State.emissionDone_output_length, bmpScaledFile_length, bmpRawFile_length, pcxFile_length, hout,
      Nat.add_assoc, Nat.reduceAdd]
  · rcases Nat.lt_or_ge s.input.length 4096 with hl | hl
    · exact ⟨_, execLoad_short hi hl, rfl, rfl⟩
    · exact ⟨_, execLoad_loaded hi hl, rfl, rfl⟩

/-! ## The parameters (R84) -/

theorem Entered.params_eq {s t : State} {st : Stage} (h : Entered s st t) : t.params = s.params := by
  cases h <;> rfl

theorem finishPrimitive_params {s : State} (hp : s.phase = .run) : (finishPrimitive s).params = s.params := by
  rcases finishPrimitive_cases hp with h | ⟨st, h⟩
  · rw [h]; rfl
  · exact h.params_eq

theorem advance_params (lastCol : BitVec 6) (s : State) : (advance lastCol s).params = s.params := by
  obtain ⟨r, c, h⟩ := advance_eq_moveTo lastCol s
  rw [h]; rfl

theorem loadBeat_params {s : State} (hp : s.phase = .run) : (loadBeat s).params = s.params := by
  cases hin : s.input with
  | nil => rw [loadBeat_nil hin]; rfl
  | cons v rest =>
    rw [loadBeat_cons hin]
    split_ifs
    · exact finishPrimitive_params (s := { takeByte v rest s with rawV := true }) hp
    · exact advance_params 63 (takeByte v rest s)

theorem unpackBeat_params {s : State} (hp : s.phase = .run) : (unpackBeat s).params = s.params := by
  rw [unpackBeat_eq]
  split_ifs
  · exact finishPrimitive_params (s := { expandByte s with unpV := true }) hp
  · exact advance_params 59 (expandByte s)

theorem upscaleBeat_params {s : State} (hp : s.phase = .run) : (upscaleBeat s).params = s.params := by
  rw [upscaleBeat_eq]
  split_ifs
  · exact finishPrimitive_params (s := { spreadPixel s with sclV := true }) hp
  · rfl

theorem emitBeat_params {s : State} (hp : s.phase = .run) : (emitBeat s).params = s.params := by
  cases hn : s.nextOut with
  | none => rw [emitBeat_none hn]
  | some out =>
    rw [emitBeat_some hn]
    split_ifs
    · exact finishPrimitive_params (s := emitByte out s) hp
    · exact advance_params 59 (emitByte out s)
    · rfl

theorem beatBody_params {s : State} (hp : s.phase = .run) : (beatBody s).params = s.params := by
  unfold beatBody
  split
  · rfl
  · exact loadBeat_params hp
  · exact unpackBeat_params hp
  · exact upscaleBeat_params hp
  · exact emitBeat_params hp
  · exact emitBeat_params hp

theorem keptByActs_params (p : Params) : KeptByActs fun s => s.params = p where
  host _ _ h := h
  sink _ _ h := h
  reset _ h := h
  illegal _ _ _ h := h
  start _ _ _ hst h := (entered_enter rfl hst).params_eq.trans h
  beat _ hp h := (beatBody_params hp).trans h

/-- Settles O60: every act of the host, every entry and every beat keeps the parameters. -/
theorem parametersNeverChange : Obligations.ParametersNeverChange := fun s _ ht =>
  (keptByActs_params s.params).step_next rfl ht

end Sys2Proof.Machine
